-- ==== Sys2Proof/Word.lean ====
section
/-! DEFINITION. The block's bit vectors: a byte (00_scope R9), the 32-bit word of the host window (20_memory R50),
a 16-bit coordinate register (10_state R28), a 7-bit bus device address (10_state R31) and a byte offset in the
8 KiB window (20_memory R50). -/
namespace Sys2Proof

abbrev Byte := BitVec 8

abbrev Word := BitVec 32

abbrev Coord := BitVec 16

abbrev BusAddr := BitVec 7

/-- A byte offset in the host window, 0x0000..0x1FFF (R50). -/
abbrev Offset := BitVec 13

end Sys2Proof
end

