-- ==== Sys2Proof/Config.lean ====
section
/-! DEFINITION. The implementation parameters of 00_scope R7 and the free values: what the spec leaves open.
A machine's parameters are held in its state (`params`, which no step changes), so a statement about every state is a
statement about every WIDTH, HEIGHT, INIT_SEQ and GLYPH (93 I5, I6, I20). -/
namespace Sys2Proof

/-- One present entry of the glyph ROM: six bytes, one per column left to right, bit 0 the top row (10_state R33). -/
structure Glyph where
  g0 : Byte
  g1 : Byte
  g2 : Byte
  g3 : Byte
  g4 : Byte
  g5 : Byte
deriving DecidableEq, Repr

/-- The parameters a block instance is built with (R7). `height` is in rows; `glyphRom` is indexed by character code. -/
structure Params where
  width        : Nat
  height       : Nat
  devAddrReset : BusAddr
  initSeq      : List Byte
  glyphRom     : List (Option Glyph)
deriving DecidableEq, Repr

namespace Config

/-! The parameters R7 calls fixed. -/

/-- CTRL_CMD: the control byte of a command transaction (R7, 43_transfer R172). -/
def ctrlCmd : Byte := 0x00#8

/-- CTRL_DATA: the control byte of a data transaction (R7, 43_transfer R173). -/
def ctrlData : Byte := 0x40#8

/-- COL_LOW_CMD (R7, 43_transfer R186). -/
def colLowCmd : Byte := 0x02#8

/-- COL_HIGH_CMD (R7, 43_transfer R186). -/
def colHighCmd : Byte := 0x10#8

/-- PAGE_CMD_BASE (R7, 43_transfer R186; log entry 15). -/
def pageCmdBase : Byte := 0xB0#8

/-- ADVANCE: the cursor advance of one character (R7, 42_text R153). -/
def advance : Int := 7

/-- GLYPH_COLS (R7). -/
def glyphCols : Nat := 6

/-- GLYPH_ROWS (R7). -/
def glyphRows : Nat := 8

/-- TEXT_MAX: the capacity of the text buffer (R7, 10_state R30). -/
def textMax : Nat := 256

/-- The code of '0', the one character whose glyph the source fixes (10_state R33). -/
def codeZero : Nat := 0x30

/-- The glyph of '0' (10_state R33, 42_text R158). -/
def glyphZero : Glyph := ⟨0x3E#8, 0x51#8, 0x49#8, 0x45#8, 0x3E#8, 0x00#8⟩

/-! Free values: constants with no body, so no proof can see them. -/

/-- Byte `i` of FB after reset number `epoch`: any value (10_state R40, 93 I1; log entry 3). -/
opaque fbAtReset (epoch i : Nat) : Byte

/-- Byte `i` of TEXT after reset number `epoch`: any value (10_state R30, 93 I3; log entry 3). -/
opaque textAtReset (epoch i : Nat) : Byte

/-- How many bytes, modulo 56, INIT_SEQ has beyond its least length 9 (R7, 93 I5; log entry 4). -/
opaque initSeqExtra : Nat

/-- Byte `n` of INIT_SEQ: OPEN (43_transfer R182, 93 I5; log entry 4). -/
opaque initSeqByte (n : Nat) : Byte

/-- The glyph ROM's entry for a code other than 0x30: OPEN (10_state R33, 93 I6; log entry 4). -/
opaque glyphEntry (code : Nat) : Option Glyph

/-- The parameters of the machine of `State.reset`: R7's default column, free where R7 says OPEN. -/
def defaultParams : Params where
  width := 128
  height := 64
  devAddrReset := 0x3C#7
  initSeq := (List.range (9 + initSeqExtra % 56)).map initSeqByte
  glyphRom := (List.range 256).map fun code => if code = codeZero then some glyphZero else glyphEntry code

end Config

/-- PAGES (R7). -/
def Params.pages (p : Params) : Nat := p.height / 8

/-- FB_BYTES (R7). -/
def Params.fbBytes (p : Params) : Nat := p.width * p.pages

end Sys2Proof
end

