-- ==== Sys2Proof/Syntax.lean ====
section
/-! DEFINITION. The commands of the opcode map (30_encoding R83; spec/opcode_table.json), one constructor a row. -/
namespace Sys2Proof

/-- A command. `c` is the `C` bit of its word (R81): the colour of FILL, SET_PIXEL and DRAW_LINE, ignored by INIT,
DRAW_TEXT and FLUSH (R82). Every other operand is a register, latched at acceptance (R84). -/
inductive Instr where
  | init (c : Bool)
  | fill (c : Bool)
  | setPixel (c : Bool)
  | drawLine (c : Bool)
  | drawText (c : Bool)
  | flush (c : Bool)
deriving DecidableEq, Repr

end Sys2Proof
end

