-- ==== Sys2Proof/Machine/State.lean ====
section
/-! DEFINITION. The machine's state as plain data (10_state R20 to R40), the agents around the block (00_scope R13),
why a step can stop, and the state after reset. -/
namespace Sys2Proof.Machine

/-- A byte memory: the bytes that have been written since the last reset, by rising address. A byte that is not listed
is unspecified (10_state R30, R40): it reads as a free value, and no listed byte is one (log entry 3). -/
abbrev Memory := List Host.Cell

/-- The canonical form: addresses strictly rising. -/
def Memory.wf : Memory → Bool
  | [] => true
  | [_] => true
  | c :: d :: m => decide (c.1 < d.1) && Memory.wf (d :: m)

/-- STATE (R23). -/
inductive CtlState where
  | uninit
  | initializing
  | ready
  | failed
deriving DecidableEq, Repr

/-- The result codes the block produces (R26). -/
inductive ResultCode where
  | ok
  | transportError
  | initError
  | illegalCommand
  | badState
deriving DecidableEq, Repr

/-- The Bus Transport's answer to a transaction (43_transfer R171). -/
inductive Answer where
  | ok
  | fail
deriving DecidableEq, Repr

/-- An entry of the bus log (R38). `answer` is `none` from the issue of the transaction to its answer, and stays so
when a reset abandons it (70_reset R230). -/
structure Transaction where
  addr   : BusAddr
  bytes  : List Byte
  answer : Option Answer
deriving DecidableEq, Repr

/-- The registers that DRAW_LINE's loop works on, mathematical integers (41_line R131, 00_scope R10). -/
structure LineRegs where
  x  : Int
  y  : Int
  dx : Int
  dy : Int
  sx : Int
  sy : Int
  e  : Int
deriving DecidableEq, Repr

/-- What the engine is doing: the running command and its progress (R35), nothing when idle (93 I15). -/
inductive Engine where
  /-- `op = IDLE` -/
  | idle
  /-- FILL: byte `i` is next; at FB_BYTES, completion -/
  | fill (i : Nat)
  /-- SET_PIXEL: the plot is next -/
  | pixel
  /-- SET_PIXEL: completion is next -/
  | pixelEnd
  /-- DRAW_LINE: an iteration of the loop is next -/
  | line (r : LineRegs)
  /-- DRAW_LINE: completion is next -/
  | lineEnd
  /-- DRAW_TEXT: bit `row` of column `col` of character `k` is next, the cursor at `cx`; at `k = llen`, completion -/
  | text (k : Nat) (cx : Int) (col row : Nat)
  /-- INIT: the clear of byte `i` is next; at FB_BYTES, the first transaction -/
  | initClear (i : Nat)
  /-- INIT: the issue of the transaction of INIT_SEQ byte `n` is next; at the end of INIT_SEQ, completion -/
  | initSend (n : Nat)
  /-- INIT: the transaction of INIT_SEQ byte `n` waits for its answer -/
  | initWait (n : Nat)
  /-- INIT: a transaction was answered FAIL; completion is next -/
  | initAbort
  /-- FLUSH: the issue of transaction `j` (0..3) of page `p` is next; at `p = PAGES`, completion -/
  | flushSend (p j : Nat)
  /-- FLUSH: transaction `j` of page `p` waits for its answer -/
  | flushWait (p j : Nat)
  /-- FLUSH: a transaction was answered FAIL; completion is next -/
  | flushAbort
deriving DecidableEq, Repr

/-- `op` (R35): the opcode of the running command, `none` for IDLE. -/
inductive Opcode where
  | init
  | fill
  | setPixel
  | drawLine
  | drawText
  | flush
deriving DecidableEq, Repr

/-- The operand latches (R36). -/
structure Latches where
  lx0    : Coord
  ly0    : Coord
  lx1    : Coord
  ly1    : Coord
  lcolor : Bool
  llen   : BitVec 9
deriving DecidableEq, Repr

/-- How wide a host access is (20_memory R52). -/
inductive AccessSize where
  | b8
  | b16
  | b32
  | b64
deriving DecidableEq, Repr

/-- Any access of the host to the window, the ones that act and the ones that do not (R52). -/
inductive Access where
  | read (size : AccessSize) (offset : Offset)
  | write (size : AccessSize) (offset : Offset) (value : BitVec 64)
deriving DecidableEq, Repr

/-- A host read and the value it returned: observable output (a) of 00_scope R15. -/
structure HostRead where
  size   : AccessSize
  offset : Offset
  value  : BitVec 64
deriving DecidableEq, Repr

/-- The named registers of the window map (20_memory R51); `text k` and `fb k` are the words TEXT+4k and FB+4k
(30_encoding R88). -/
inductive RegName where
  | cmd
  | status
  | x0
  | y0
  | x1
  | y1
  | textLen
  | devAddr
  | geometry
  | text (k : Fin 64)
  | fb (k : Fin 256)
deriving DecidableEq, Repr

/-- One line of a host program (R88); `access` is any other access a host may make (20_memory R52, R67). -/
inductive HostLine where
  /-- `label:` -/
  | label (l : Nat)
  /-- `wr NAME, value` -/
  | wr (name : RegName) (value : Word)
  /-- `rd NAME -> t` -/
  | rd (name : RegName) (t : Nat)
  /-- `bit1 t, n, label` -/
  | bit1 (t n l : Nat)
  /-- `jmp label` -/
  | jmp (l : Nat)
  | access (a : Access)
deriving DecidableEq, Repr

/-- The host: its program, the index of its next line, and its temporaries, the latest first. -/
structure HostAgent where
  code  : List HostLine
  pc    : Nat
  temps : List (Nat × Word)
deriving DecidableEq, Repr

/-- Whose event comes next in the total order of 20_memory R61. -/
inductive Turn where
  | host
  | engine
  | bus
  | reset
deriving DecidableEq, Repr

/-- The machine: the block's state (R20), the bus log (R38), and the agents around it (log entries 1, 2, 9, 10). -/
structure State where
  /-- the constants of the build: GEOMETRY (R32), GLYPH (R33), INIT_SEQ (R34), DEV_ADDR_RESET -/
  params    : Params
  /-- FB (R21) -/
  fb        : Memory
  /-- STATE (R23) -/
  ctl       : CtlState
  /-- STATUS.BUSY (R25) -/
  busy      : Bool
  /-- STATUS.RESULT (R25, R26) -/
  result    : ResultCode
  /-- STATUS.DROP (R25) -/
  drop      : Bool
  /-- X0, Y0, X1, Y1 (R28) -/
  x0        : Coord
  y0        : Coord
  x1        : Coord
  y1        : Coord
  /-- TEXT_LEN (R29) -/
  textLen   : BitVec 9
  /-- TEXT (R30) -/
  text      : Memory
  /-- DEV_ADDR (R31) -/
  devAddr   : BusAddr
  /-- the running command and its progress (R35) -/
  engine    : Engine
  /-- the operand latches (R36) -/
  latch     : Latches
  /-- the bus log, oldest first (R38) -/
  busLog    : List Transaction
  /-- the host's reads, oldest first (00_scope R15) -/
  hostReads : List HostRead
  /-- the Bus Transport's answers not yet given, the next first (00_scope R14) -/
  answers   : List Answer
  /-- the host (00_scope R6, R13) -/
  host      : HostAgent
  /-- whose events come next, as far as that is fixed (20_memory R61) -/
  sched     : List Turn
  /-- the number of resets so far, which indexes the free values of FB and TEXT (R40) -/
  epoch     : Nat
deriving DecidableEq, Repr

/-- Why a step can stop. The block has no fault of its own (60_exceptions R210): no command and no access stops. -/
inductive Fault where
  /-- Raised by the host's `jmp` and `bit1` when no line of its program defines the label: a host program that
  30_encoding R88 gives no meaning. Safe: it is the host that stops, and no such program is assembled. -/
  | undefinedLabel (l : Nat)
deriving DecidableEq, Repr

/-- Why an instruction has no meaning. -/
inductive Refusal where
  /-- Raised by `exec` for a command that has no meaning yet; no arm raises it. Safe. -/
  | notModelled (mnemonic : String)
deriving DecidableEq, Repr

/-- The machine right after the first reset of a run (R39, 70_reset R230): the parameters of `Config.defaultParams`,
every register at R39's value, FB and TEXT unspecified (nothing listed), the engine idle, and nothing around it. -/
def State.reset : State where
  params := Config.defaultParams
  fb := []
  ctl := .uninit
  busy := false
  result := .ok
  drop := false
  x0 := 0#16
  y0 := 0#16
  x1 := 0#16
  y1 := 0#16
  textLen := 0#9
  text := []
  devAddr := Config.defaultParams.devAddrReset
  engine := .idle
  latch := ⟨0#16, 0#16, 0#16, 0#16, false, 0#9⟩
  busLog := []
  hostReads := []
  answers := []
  host := ⟨[], 0, []⟩
  sched := []
  epoch := 0

end Sys2Proof.Machine
end

