-- ==== Sys2Proof/Machine/Flags.lean ====
section
/-! DEFINITION. The STATUS register: its fields' encodings, the word a read returns and what a write does (10_state R23,
R25, R26). -/
namespace Sys2Proof.Machine

/-- The encoding of STATE (R23). -/
def ctlBits : CtlState → BitVec 2
  | .uninit => 0#2
  | .initializing => 1#2
  | .ready => 2#2
  | .failed => 3#2

/-- The encoding of RESULT (R26). -/
def resultBits : ResultCode → BitVec 4
  | .ok => 0#4
  | .transportError => 1#4
  | .initError => 2#4
  | .illegalCommand => 3#4
  | .badState => 4#4

/-- What a read of STATUS returns: bits 31:9 zero, DROP, RESULT, bit 3 zero, STATE, BUSY (R25). -/
def statusWord (s : State) : Word :=
  (((((0#23 ++ BitVec.ofBool s.drop) ++ resultBits s.result) ++ 0#1) ++ ctlBits s.ctl) ++ BitVec.ofBool s.busy)

/-- A write of `v` to STATUS: if bit 8 of `v` is 1, DROP becomes 0; it is never ignored (R25, 92 D33). -/
def statusWrite (v : Word) (s : State) : State :=
  if v.getLsbD 8 then { s with drop := false } else s

end Sys2Proof.Machine
end

