-- ==== Sys2Proof/Decode.lean ====
section
/-! DEFINITION. Decoding and encoding of command words (30_encoding R81 to R91), and their byte form. -/
namespace Sys2Proof

/-- Why a command word is illegal (R87). Whichever it is, the block answers ILLEGAL_COMMAND (R95). -/
inductive DecodeError where
  /-- one or more of bits 31:5 are set -/
  | reservedBits
  /-- the opcode is 0x0 or 0x7..0xF -/
  | reservedOpcode
  /-- fewer than the four bytes of a command word are there (the byte form only) -/
  | truncated
deriving DecidableEq, Repr

/-- OP, bits 3:0 (R81). -/
def opField (w : Word) : BitVec 4 := w.extractLsb' 0 4

/-- C, bit 4 (R81). -/
def cField (w : Word) : Bool := w.getLsbD 4

/-- RSV, bits 31:5 (R81). -/
def rsvField (w : Word) : BitVec 27 := w.extractLsb' 5 27

/-- Decoding of a command word, total (R83, R86, R87). -/
def decode (w : Word) : Except DecodeError Instr :=
  if rsvField w ≠ 0#27 then .error .reservedBits
  else
    match (opField w).toNat with
    | 1 => .ok (.init (cField w))
    | 2 => .ok (.fill (cField w))
    | 3 => .ok (.setPixel (cField w))
    | 4 => .ok (.drawLine (cField w))
    | 5 => .ok (.drawText (cField w))
    | 6 => .ok (.flush (cField w))
    | _ => .error .reservedOpcode

/-- A command word from its fields (R81). -/
def commandWord (op : BitVec 4) (c : Bool) : Word := (0#27 ++ BitVec.ofBool c) ++ op

/-- The command word of a command (R83; R89 where C is the operand or 0). -/
def encode : Instr → Word
  | .init c => commandWord 0x1#4 c
  | .fill c => commandWord 0x2#4 c
  | .setPixel c => commandWord 0x3#4 c
  | .drawLine c => commandWord 0x4#4 c
  | .drawText c => commandWord 0x5#4 c
  | .flush c => commandWord 0x6#4 c

/-- Four bytes as a word, the first in bits 7:0 (the window's byte order, 20_memory R55; log entry 8). -/
def wordOfBytes (b0 b1 b2 b3 : Byte) : Word := b3 ++ b2 ++ b1 ++ b0

/-- Byte `i` of a word (R55). -/
def byteOfWord (w : Word) (i : Nat) : Byte := w.extractLsb' (8 * i) 8

/-- Decoding from bytes: one command word, always four bytes (R81), and the bytes after it. -/
def decodeBytes : List Byte → Except DecodeError (Instr × List Byte)
  | b0 :: b1 :: b2 :: b3 :: rest =>
    match decode (wordOfBytes b0 b1 b2 b3) with
    | .ok i => .ok (i, rest)
    | .error e => .error e
  | _ => .error .truncated

/-- The four bytes of a command's word. -/
def encodeBytes (i : Instr) : List Byte :=
  [byteOfWord (encode i) 0, byteOfWord (encode i) 1, byteOfWord (encode i) 2, byteOfWord (encode i) 3]

/-- The command word of an opcode-table row: its `nbits` bits as the table numbers them, every bit above them 0. -/
def tableWord (nbits w : Nat) : Word := BitVec.ofNat 32 (w % 2 ^ nbits)

/-- What the decoder reads from the bits of an opcode-table row, laid out as bytes. -/
def decodeTableWord (nbits w : Nat) : Option Instr :=
  let v := tableWord nbits w
  match decodeBytes [byteOfWord v 0, byteOfWord v 1, byteOfWord v 2, byteOfWord v 3] with
  | .ok (i, _) => some i
  | .error _ => none

end Sys2Proof
end

