-- ==== Sys2Proof/Machine/Operands.lean ====
section
/-! DEFINITION. Operand forms: what a window write stores in an operand register and what a read returns (10_state R28
to R32), the operands a command takes (30_encoding R85), and the byte lanes of a window word (20_memory R55). -/
namespace Sys2Proof.Machine

/-- The integer of a coordinate register (R85). -/
def coordInt (c : Coord) : Int := c.toInt

/-- What a write of `v` stores in X0, Y0, X1 or Y1 (R28). -/
def coordOfWord (v : Word) : Coord := v.extractLsb' 0 16

/-- What a read of X0, Y0, X1 or Y1 returns (R28). -/
def wordOfCoord (c : Coord) : Word := c.signExtend 32

/-- What a write of `v` stores in TEXT_LEN: `min(zext(v[15:0]), TEXT_MAX)` (R29). -/
def textLenOfWord (v : Word) : BitVec 9 := BitVec.ofNat 9 (min (v.extractLsb' 0 16).toNat Config.textMax)

/-- What a read of TEXT_LEN returns (R29). -/
def wordOfTextLen (l : BitVec 9) : Word := l.zeroExtend 32

/-- What a write of `v` stores in DEV_ADDR, when it stores (R31). -/
def devAddrOfWord (v : Word) : BusAddr := v.extractLsb' 0 7

/-- What a read of DEV_ADDR returns (R31). -/
def wordOfDevAddr (a : BusAddr) : Word := a.zeroExtend 32

/-- GEOMETRY: WIDTH in bits 15:0, HEIGHT in bits 31:16 (R32). -/
def geometryWord (p : Params) : Word := BitVec.ofNat 16 p.height ++ BitVec.ofNat 16 p.width

/-- A window word from its four lanes, lane 0 in bits 7:0 (R55). -/
def wordOfLanes (lane : Nat → Byte) : Word := wordOfBytes (lane 0) (lane 1) (lane 2) (lane 3)

/-- What a command's acceptance latches (R36). -/
def latchOperands (c : Bool) (s : State) : Latches where
  lx0 := s.x0
  ly0 := s.y0
  lx1 := s.x1
  ly1 := s.y1
  lcolor := c
  llen := s.textLen

end Sys2Proof.Machine
end

