-- ==== Sys2Proof/Machine/Ops.lean ====
section
/-! DEFINITION. The shared operations: byte memories, the plot datapath (40_framebuffer R110), the outcomes of a command
write (30_encoding R95), completion with a result code (00_scope R11, the whole of an error's entry by 60_exceptions
R210), the transaction port (43_transfer R171) and reset (70_reset R230). There is no return from an error (R211). -/
namespace Sys2Proof.Machine

/-! Byte memories. -/

/-- The byte listed at address `a`, if one is. -/
def Memory.lookup : Memory → Nat → Option Byte
  | [], _ => none
  | (b, v) :: m, a => if a = b then some v else Memory.lookup m a

/-- The memory with `v` at address `a`. -/
def Memory.write : Memory → Nat → Byte → Memory
  | [], a, v => [(a, v)]
  | (b, u) :: m, a, v =>
    if a < b then (a, v) :: (b, u) :: m
    else if a = b then (a, v) :: m
    else (b, u) :: Memory.write m a v

/-- FB[i]: the byte written since the last reset, else a free value (10_state R40). -/
def fbByte (s : State) (i : Nat) : Byte := (s.fb.lookup i).getD (Config.fbAtReset s.epoch i)

/-- FB[i] <- v. -/
def setFbByte (i : Nat) (v : Byte) (s : State) : State := { s with fb := s.fb.write i v }

/-- TEXT[j]: the code written since the last reset, else a free value (10_state R30). -/
def textByte (s : State) (j : Nat) : Byte := (s.text.lookup j).getD (Config.textAtReset s.epoch j)

/-- TEXT[j] <- v. -/
def setTextByte (j : Nat) (v : Byte) (s : State) : State := { s with text := s.text.write j v }

/-! The plot datapath. -/

/-- Whether pixel `(x, y)` is in the framebuffer (R110). -/
def onScreen (p : Params) (x y : Int) : Bool :=
  decide (0 ≤ x) && decide (x < p.width) && decide (0 ≤ y) && decide (y < p.height)

/-- The index of the byte that holds pixel `(x, y)` (10_state R21, R110). -/
def pixelIndex (p : Params) (x y : Int) : Nat := x.toNat + y.toNat / 8 * p.width

/-- The bit of that byte (R21, R110). -/
def pixelBit (y : Int) : Nat := y.toNat % 8

/-- A byte with one bit set or cleared (R110). -/
def withBit (c : Bool) (bit : Nat) (b : Byte) : Byte :=
  if c then b ||| (1#8 <<< bit) else b &&& ~~~(1#8 <<< bit)

/-- `plot(x, y, c)` (R110, R114): one read-modify-write of one byte, or nothing when clipped. -/
def plot (x y : Int) (c : Bool) (s : State) : State :=
  if onScreen s.params x y then
    setFbByte (pixelIndex s.params x y) (withBit c (pixelBit y) (fbByte s (pixelIndex s.params x y))) s
  else s

/-! The outcomes of a command write. -/

/-- A host write ignored because BUSY is 1: DROP becomes 1 and nothing else changes (R97, 70_reset R240). -/
def dropWrite (s : State) : State := { s with drop := true }

/-- A rejected command changes only RESULT (R96). -/
def reject (code : ResultCode) (s : State) : State := { s with result := code }

/-- Acceptance, all in one step (R95): the operands are latched, the engine starts, BUSY is 1, RESULT is OK. -/
def accept (c : Bool) (start : Engine) (s : State) : State :=
  { s with latch := latchOperands c s, engine := start, busy := true, result := .ok }

/-- The acceptance procedure of R95 for a legal command word, its checks in R207's order: `ok` says which STATEs accept
the command, `start` is its acceptance. -/
def issue (ok : CtlState → Bool) (start : State → State) (s : State) : State :=
  if s.busy then dropWrite s
  else if ok s.ctl then start s
  else reject .badState s

/-- The STATEs that accept every command but INIT (R83). -/
def acceptsDrawing (c : CtlState) : Bool := c == .ready

/-- The STATEs that accept INIT (R83). -/
def acceptsInit (c : CtlState) : Bool := c == .uninit || c == .failed

/-- `complete(code)` (00_scope R11, 10_state R27): BUSY 0, RESULT the code, the engine idle, in one step. -/
def complete (code : ResultCode) (s : State) : State :=
  { s with busy := false, result := code, engine := .idle }

/-! The transaction port. -/

/-- The issue of a transaction: an entry with no answer yet is appended to the bus log (R171), at DEV_ADDR (R170). -/
def issueTxn (bytes : List Byte) (s : State) : State :=
  { s with busLog := s.busLog ++ [⟨s.devAddr, bytes, none⟩] }

/-- The log with the answer of its last entry recorded (R171). -/
def recordAnswer (r : Answer) : List Transaction → List Transaction
  | [] => []
  | [t] => [{ t with answer := some r }]
  | t :: u :: l => t :: recordAnswer r (u :: l)

/-- A command transaction's bytes (R172). -/
def cmdTxn (b : Byte) : List Byte := [Config.ctrlCmd, b]

/-- A data transaction's bytes (R173). -/
def dataTxn (seq : List Byte) : List Byte := Config.ctrlData :: seq

/-! Reset. -/

/-- A reset (R230, 10_state R39): every register at its reset value, FB and TEXT unspecified, a running command and an
outstanding transaction abandoned. The parameters (R232), the bus log (10_state R38) and the agents outside the block
stay. -/
def resetBlock (s : State) : State :=
  { s with
    fb := []
    ctl := .uninit
    busy := false
    result := .ok
    drop := false
    x0 := 0#16
    y0 := 0#16
    x1 := 0#16
    y1 := 0#16
    textLen := 0#9
    text := []
    devAddr := s.params.devAddrReset
    engine := .idle
    latch := ⟨0#16, 0#16, 0#16, 0#16, false, 0#9⟩
    epoch := s.epoch + 1 }

end Sys2Proof.Machine
end

