-- ==== Sys2Proof/Machine/Framebuffer.lean ====
section
/-! DEFINITION. FILL and SET_PIXEL (40_framebuffer R111, R113). -/
namespace Sys2Proof.Machine

/-- A CMD write of FILL (30_encoding R95). -/
def execFill (c : Bool) (s : State) : Host.Outcome State Fault Refusal :=
  .next (issue acceptsDrawing (accept c (.fill 0)) s)

/-- The byte FILL writes (R111). -/
def fillByte (c : Bool) : Byte := if c then 0xFF#8 else 0x00#8

/-- One step of FILL at byte `i` (R111): the byte's write, or completion after the last. -/
def fillStep (i : Nat) (s : State) : State :=
  if i < s.params.fbBytes then
    { setFbByte i (fillByte s.latch.lcolor) s with engine := .fill (i + 1) }
  else complete .ok s

/-- A CMD write of SET_PIXEL (30_encoding R95). -/
def execSetPixel (c : Bool) (s : State) : Host.Outcome State Fault Refusal :=
  .next (issue acceptsDrawing (accept c .pixel) s)

/-- SET_PIXEL's plot (R113). -/
def pixelStep (s : State) : State :=
  { plot (coordInt s.latch.lx0) (coordInt s.latch.ly0) s.latch.lcolor s with engine := .pixelEnd }

end Sys2Proof.Machine
end

