-- ==== Sys2Proof/Machine/Line.lean ====
section
/-! DEFINITION. DRAW_LINE (41_line R131). -/
namespace Sys2Proof.Machine

/-- The registers before the first iteration (R131). -/
def lineStart (x0 y0 x1 y1 : Int) : LineRegs where
  x := x0
  y := y0
  dx := (x1 - x0).natAbs
  dy := (y1 - y0).natAbs
  sx := (x1 - x0).sign
  sy := (y1 - y0).sign
  e := (x1 - x0).natAbs - (y1 - y0).natAbs

/-- One move of the loop: `e > 0` steps x, else (`e = 0` too, R132) y (R131). -/
def lineMove (r : LineRegs) : LineRegs :=
  if r.e > 0 then { r with x := r.x + r.sx, e := r.e - 2 * r.dy }
  else { r with y := r.y + r.sy, e := r.e + 2 * r.dx }

/-- A CMD write of DRAW_LINE (30_encoding R95); the engine starts from the operands it latches. -/
def execDrawLine (c : Bool) (s : State) : Host.Outcome State Fault Refusal :=
  .next (issue acceptsDrawing
    (accept c (.line (lineStart (coordInt s.x0) (coordInt s.y0) (coordInt s.x1) (coordInt s.y1)))) s)

/-- One iteration of the loop (R131): the plot, then the exit at the endpoint or a move. -/
def lineStep (r : LineRegs) (s : State) : State :=
  { plot r.x r.y s.latch.lcolor s with
    engine :=
      if r.x = coordInt s.latch.lx1 ∧ r.y = coordInt s.latch.ly1 then .lineEnd else .line (lineMove r) }

end Sys2Proof.Machine
end

