-- ==== Sys2Proof/Machine/Text.lean ====
section
/-! DEFINITION. DRAW_TEXT and the glyph ROM (42_text R151 to R156). -/
namespace Sys2Proof.Machine

/-- GLYPH[ch] (10_state R33): the entry of an 8-bit code, `none` when absent. -/
def glyphOf (p : Params) (ch : Byte) : Option Glyph := (p.glyphRom[ch.toNat]?).join

/-- Column `col` of a glyph, 0 the leftmost (R156). -/
def glyphColumn (g : Glyph) : Nat → Byte
  | 0 => g.g0
  | 1 => g.g1
  | 2 => g.g2
  | 3 => g.g3
  | 4 => g.g4
  | 5 => g.g5
  | _ => 0x00#8

/-- Glyph pixel `(col, row)`: bit `row` of column `col`, bit 0 the top row (R156). -/
def glyphPixel (g : Glyph) (col row : Nat) : Bool := (glyphColumn g col).getLsbD row

/-- A CMD write of DRAW_TEXT (30_encoding R95). `c` is latched and has no other effect (R82). -/
def execDrawText (c : Bool) (s : State) : Host.Outcome State Fault Refusal :=
  .next (issue acceptsDrawing (accept c (.text 0 (coordInt s.x0) 0 0)) s)

/-- Where the engine goes after glyph bit `(col, row)` of character `k` (R151): rows, then columns, then characters,
each ascending, the cursor 7 pixels on at each character (R153, R159). -/
def textNext (k : Nat) (cx : Int) (col row : Nat) : Engine :=
  if row + 1 < Config.glyphRows then .text k cx col (row + 1)
  else if col + 1 < Config.glyphCols then .text k cx (col + 1) 0
  else .text (k + 1) (cx + Config.advance) 0 0

/-- One step of DRAW_TEXT (R151): an unmapped character advances the cursor and draws nothing (R153, R155); a set glyph
bit is plotted on, a clear one is not written (R152); after the last character, completion. -/
def textStep (k : Nat) (cx : Int) (col row : Nat) (s : State) : State :=
  if k < s.latch.llen.toNat then
    match glyphOf s.params (textByte s k) with
    | none => { s with engine := .text (k + 1) (cx + Config.advance) 0 0 }
    | some g =>
      if glyphPixel g col row then
        { plot (cx + col) (coordInt s.latch.ly0 + row) true s with engine := textNext k cx col row }
      else { s with engine := textNext k cx col row }
  else complete .ok s

end Sys2Proof.Machine
end

