-- ==== Sys2Proof/Machine/Transfer.lean ====
section
/-! DEFINITION. The transfer controller: INIT and FLUSH (43_transfer R181, R186), and the Bus Transport's answer to an
outstanding transaction (R171). -/
namespace Sys2Proof.Machine

/-- A CMD write of INIT (30_encoding R95): acceptance also sets STATE to INITIALIZING. `c` is latched and has no other
effect (R82). -/
def execInit (c : Bool) (s : State) : Host.Outcome State Fault Refusal :=
  .next (issue acceptsInit (fun s => { accept c (.initClear 0) s with ctl := .initializing }) s)

/-- INIT at byte `n` of INIT_SEQ (R181): the issue of its transaction, or completion in READY after the last. -/
def initSendStep (n : Nat) (s : State) : State :=
  match s.params.initSeq[n]? with
  | some b => { issueTxn (cmdTxn b) s with engine := .initWait n }
  | none => { complete .ok s with ctl := .ready }

/-- INIT's clear at byte `i` (R181): the byte's write, and after the last the way to the first transaction. -/
def initClearStep (i : Nat) (s : State) : State :=
  if i < s.params.fbBytes then
    { setFbByte i 0x00#8 s with engine := if i + 1 < s.params.fbBytes then .initClear (i + 1) else .initSend 0 }
  else initSendStep 0 s

/-- INIT's completion after a FAIL (R181): STATE FAILED and INIT_ERROR, one step. -/
def initAbortStep (s : State) : State := { complete .initError s with ctl := .failed }

/-- A CMD write of FLUSH (30_encoding R95). `c` is latched and has no other effect (R82). -/
def execFlush (c : Bool) (s : State) : Host.Outcome State Fault Refusal :=
  .next (issue acceptsDrawing (accept c (.flushSend 0 0)) s)

/-- The page-select command of page `p`: PAGE_CMD_BASE OR p (R186). -/
def pageSelect (p : Nat) : Byte := Config.pageCmdBase ||| BitVec.ofNat 8 p

/-- Page `p`'s data bytes, its columns reversed (R186, R187). -/
def pageData (s : State) (p : Nat) : List Byte :=
  (List.range s.params.width).map fun k => fbByte s (p * s.params.width + (s.params.width - 1 - k))

/-- The bytes of transaction `j` of page `p` (R186). -/
def flushBytes (s : State) (p : Nat) : Nat → List Byte
  | 0 => cmdTxn (pageSelect p)
  | 1 => cmdTxn Config.colLowCmd
  | 2 => cmdTxn Config.colHighCmd
  | _ => dataTxn (pageData s p)

/-- FLUSH at transaction `j` of page `p` (R186): its issue, or completion after the last page. -/
def flushSendStep (p j : Nat) (s : State) : State :=
  if p < s.params.pages then { issueTxn (flushBytes s p j) s with engine := .flushWait p j }
  else complete .ok s

/-- FLUSH's completion after a FAIL (R186): TRANSPORT_ERROR, STATE as it was. -/
def flushAbortStep (s : State) : State := complete .transportError s

/-- Where FLUSH goes after an OK answer to transaction `j` of page `p` (R186). -/
def flushNext (p j : Nat) : Engine := if j < 3 then .flushSend p (j + 1) else .flushSend (p + 1) 0

/-- Whether a transaction is outstanding: issued by the running command and not yet answered (R171). -/
def waiting (s : State) : Bool :=
  match s.engine with
  | .initWait _ => true
  | .flushWait _ _ => true
  | _ => false

/-- Where the engine goes on an answer (R181, R186): on with an OK, to its completion with a FAIL. -/
def afterAnswer (r : Answer) : Engine → Engine
  | .initWait n => match r with | .ok => .initSend (n + 1) | .fail => .initAbort
  | .flushWait p j => match r with | .ok => flushNext p j | .fail => .flushAbort
  | e => e

/-- The Bus Transport's move (R171): it answers the outstanding transaction, and the answer is recorded. With no
transaction outstanding, or no answer to give, nothing happens (70_reset R230, R250). -/
def busStep (s : State) : State :=
  if waiting s then
    match s.answers with
    | r :: rest =>
      { s with answers := rest, busLog := recordAnswer r s.busLog, engine := afterAnswer r s.engine }
    | [] => s
  else s

end Sys2Proof.Machine
end

