-- ==== Sys2Proof/Machine/Dispatch.lean ====
section
/-! DEFINITION. What a CMD write of each command does: one arm per constructor (30_encoding R83, R95). -/
namespace Sys2Proof.Machine

def exec (i : Instr) (s : State) : Host.Outcome State Fault Refusal :=
  match i with
  | .init c => Sys2Proof.Machine.execInit c s
  | .fill c => Sys2Proof.Machine.execFill c s
  | .setPixel c => Sys2Proof.Machine.execSetPixel c s
  | .drawLine c => Sys2Proof.Machine.execDrawLine c s
  | .drawText c => Sys2Proof.Machine.execDrawText c s
  | .flush c => Sys2Proof.Machine.execFlush c s

end Sys2Proof.Machine
end

