-- ==== Sys2Proof/Machine/Window.lean ====
section
/-! DEFINITION. The host window: the map (20_memory R51), what a word read returns and a word write does (R53 to R58,
10_state R25 to R32, 70_reset R240), the command port (30_encoding R80, R95), and the accesses that do not act (R52). -/
namespace Sys2Proof.Machine

/-- What lies at a word's offset: a named register, or `none` for a reserved offset (R51). -/
def regAt (o : Nat) : Option RegName :=
  if o = 0x0000 then some .cmd
  else if o = 0x0004 then some .status
  else if o = 0x0008 then some .x0
  else if o = 0x000C then some .y0
  else if o = 0x0010 then some .x1
  else if o = 0x0014 then some .y1
  else if o = 0x0018 then some .textLen
  else if o = 0x001C then some .devAddr
  else if o = 0x0020 then some .geometry
  else if h : 0x0100 ≤ o ∧ o < 0x0200 then some (.text ⟨(o - 0x0100) / 4, by omega⟩)
  else if h : 0x1000 ≤ o ∧ o < 0x1400 then some (.fb ⟨(o - 0x1000) / 4, by omega⟩)
  else none

/-- The offset of a named register (R51). -/
def offsetOf : RegName → Offset
  | .cmd => 0x0000#13
  | .status => 0x0004#13
  | .x0 => 0x0008#13
  | .y0 => 0x000C#13
  | .x1 => 0x0010#13
  | .y1 => 0x0014#13
  | .textLen => 0x0018#13
  | .devAddr => 0x001C#13
  | .geometry => 0x0020#13
  | .text k => BitVec.ofNat 13 (0x0100 + 4 * k.val)
  | .fb k => BitVec.ofNat 13 (0x1000 + 4 * k.val)

/-- What a read of a register returns (R51, R53, R56, R57, 10_state R25 to R32); lanes past FB_BYTES are 0x00 (R57). -/
def readReg (n : RegName) (s : State) : Word :=
  match n with
  | .cmd => 0#32
  | .status => statusWord s
  | .x0 => wordOfCoord s.x0
  | .y0 => wordOfCoord s.y0
  | .x1 => wordOfCoord s.x1
  | .y1 => wordOfCoord s.y1
  | .textLen => wordOfTextLen s.textLen
  | .devAddr => wordOfDevAddr s.devAddr
  | .geometry => geometryWord s.params
  | .text k => wordOfLanes fun i => textByte s (4 * k.val + i)
  | .fb k => wordOfLanes fun i => if 4 * k.val + i < s.params.fbBytes then fbByte s (4 * k.val + i) else 0x00#8

/-- What an aligned 32-bit read at an offset returns; a reserved offset reads 0 (R54). -/
def wordRead (o : Offset) (s : State) : Word :=
  match regAt o.toNat with
  | some n => readReg n s
  | none => 0#32

/-- The four bytes of a text-word write (R56). -/
def writeTextWord (k : Nat) (v : Word) (s : State) : State :=
  setTextByte (4 * k + 3) (byteOfWord v 3) (setTextByte (4 * k + 2) (byteOfWord v 2)
    (setTextByte (4 * k + 1) (byteOfWord v 1) (setTextByte (4 * k) (byteOfWord v 0) s)))

/-- What a write stores when BUSY is 0, CMD and STATUS apart (10_state R28 to R31, R56); GEOMETRY, the FB window and the
reserved offsets store nothing (R54), nor does DEV_ADDR outside UNINIT and FAILED (R31). -/
def storeReg (n : Option RegName) (v : Word) (s : State) : State :=
  match n with
  | some .x0 => { s with x0 := coordOfWord v }
  | some .y0 => { s with y0 := coordOfWord v }
  | some .x1 => { s with x1 := coordOfWord v }
  | some .y1 => { s with y1 := coordOfWord v }
  | some .textLen => { s with textLen := textLenOfWord v }
  | some .devAddr => if acceptsInit s.ctl then { s with devAddr := devAddrOfWord v } else s
  | some (.text k) => writeTextWord k.val v s
  | some .cmd => s
  | some .status => s
  | some .geometry => s
  | some (.fb _) => s
  | none => s

/-- A write of `w` to CMD (30_encoding R80, R95): dropped while BUSY, rejected when illegal, else the command's. -/
def commandWrite (w : Word) (s : State) : Host.Outcome State Fault Refusal :=
  match decode w with
  | .ok i => exec i s
  | .error _ => .next (if s.busy then dropWrite s else reject .illegalCommand s)

/-- An aligned 32-bit write of `v` at an offset: CMD, STATUS (never ignored, 10_state R25), or any other, ignored while
BUSY is 1 (70_reset R240). -/
def wordWrite (o : Offset) (v : Word) (s : State) : Host.Outcome State Fault Refusal :=
  match regAt o.toNat with
  | some .cmd => commandWrite v s
  | some .status => .next (statusWrite v s)
  | n => .next (if s.busy then dropWrite s else storeReg n v s)

/-- Whether an access acts: 32 bits wide at a multiple of 4 (R52). -/
def acts (size : AccessSize) (o : Offset) : Bool := size == .b32 && o.toNat % 4 == 0

/-- The value a read access returns: 0 when it does not act (R52). -/
def accessValue (size : AccessSize) (o : Offset) (s : State) : BitVec 64 :=
  if acts size o then (wordRead o s).zeroExtend 64 else 0#64

/-- A host access (R52, R58): a read is recorded and changes nothing of the block; a write that does not act changes
nothing. -/
def hostAccess (a : Access) (s : State) : Host.Outcome State Fault Refusal :=
  match a with
  | .read size o => .next { s with hostReads := s.hostReads ++ [⟨size, o, accessValue size o s⟩] }
  | .write size o v => if acts size o then wordWrite o (v.setWidth 32) s else .next s

end Sys2Proof.Machine
end

