-- ==== Sys2Proof/Machine/HostProgram.lean ====
section
/-! DEFINITION. The host: the statements of 30_encoding R88, the mnemonics of R89 and the pseudo-instructions of R90, and
the end of a run (70_reset R251). These belong to the host; the block sees only the accesses (R88; log entry 9). -/
namespace Sys2Proof.Machine

/-- The value of a temporary, 0 before any read into it (log entry 9). -/
def tempValue (temps : List (Nat × Word)) (t : Nat) : Word :=
  match temps with
  | [] => 0#32
  | (u, w) :: rest => if t = u then w else tempValue rest t

/-- The index of the line that defines a label. -/
def labelIndex (code : List HostLine) (l : Nat) : Option Nat := code.findIdx? (· == .label l)

/-- The jump of `jmp` and of a taken `bit1` (R88). -/
def jumpTo (l : Nat) (s : State) : Host.Outcome State Fault Refusal :=
  match labelIndex s.host.code l with
  | some i => .next { s with host := { s.host with pc := i } }
  | none => .fault (.undefinedLabel l)

/-- `rd NAME -> t`: an aligned 32-bit read, its value in `t` (R88). -/
def readInto (n : RegName) (t : Nat) (s : State) : State :=
  { s with
    hostReads := s.hostReads ++ [⟨.b32, offsetOf n, accessValue .b32 (offsetOf n) s⟩]
    host := { s.host with temps := (t, wordRead (offsetOf n) s) :: s.host.temps } }

/-- One line of the host's program (R88), the host standing at the next line. -/
def runLine (line : HostLine) (s : State) : Host.Outcome State Fault Refusal :=
  match line with
  | .label _ => .next s
  | .wr n v => wordWrite (offsetOf n) v s
  | .rd n t => .next (readInto n t s)
  | .bit1 t n l => if (tempValue s.host.temps t).getLsbD n then jumpTo l s else .next s
  | .jmp l => jumpTo l s
  | .access a => hostAccess a s

/-- The host stands at the next line. -/
def advanceHost (s : State) : State := { s with host := { s.host with pc := s.host.pc + 1 } }

/-- The host's move: its next line, or nothing after the last. -/
def hostStep (s : State) : Host.Outcome State Fault Refusal :=
  match s.host.code[s.host.pc]? with
  | some line => runLine line (advanceHost s)
  | none => .next s

/-- A run has ended (70_reset R251): the host has executed its last statement and the block is idle. -/
def runEnded (s : State) : Bool := decide (s.host.code.length ≤ s.host.pc) && !s.busy

/-- The host with one more line, at the place of its next. -/
def insertLine (line : HostLine) (h : HostAgent) : HostAgent :=
  let at' := min h.pc h.code.length
  { h with code := h.code.take at' ++ line :: h.code.drop at', pc := at' }

/-! The assembler. -/

/-- The mnemonics of R89: C is 0 for INIT, DRAW_TEXT and FLUSH. -/
def mnemonicWord : Opcode → Bool → Word
  | .init, _ => encode (.init false)
  | .fill, c => encode (.fill c)
  | .setPixel, c => encode (.setPixel c)
  | .drawLine, c => encode (.drawLine c)
  | .drawText, _ => encode (.drawText false)
  | .flush, _ => encode (.flush false)

/-- A mnemonic's line, `wr CMD, w` (R89). -/
def commandLine (op : Opcode) (c : Bool) : HostLine := .wr .cmd (mnemonicWord op c)

/-- `wr NAME, v` of a signed value: its two's-complement word (R88). -/
def wrInt (n : RegName) (v : Int) : HostLine := .wr n (BitVec.ofInt 32 v)

/-- `poll` with the fresh label and temporary `l` (R90). -/
def poll (l : Nat) : List HostLine := [.label l, .rd .status l, .bit1 l 0 l]

/-- `init` (R90). -/
def initLines (l : Nat) : List HostLine := commandLine .init false :: poll l

/-- `open a` (R90). -/
def openLines (a : Word) (l : Nat) : List HostLine := .wr .devAddr a :: initLines l

/-- `fill c` (R90). -/
def fillLines (c : Bool) (l : Nat) : List HostLine := commandLine .fill c :: poll l

/-- `clear` (R90). -/
def clearLines (l : Nat) : List HostLine := fillLines false l

/-- `pixel x, y, c` (R90). -/
def pixelLines (x y : Int) (c : Bool) (l : Nat) : List HostLine :=
  [wrInt .x0 x, wrInt .y0 y, commandLine .setPixel c] ++ poll l

/-- `line x0, y0, x1, y1, c` (R90). -/
def lineLines (x0 y0 x1 y1 : Int) (c : Bool) (l : Nat) : List HostLine :=
  [wrInt .x0 x0, wrInt .y0 y0, wrInt .x1 x1, wrInt .y1 y1, commandLine .drawLine c] ++ poll l

/-- The text words of a string's codes, the lanes past its end 0 (R90); at most 64 words. -/
def textWordLines (codes : List Byte) : List HostLine :=
  (List.range ((codes.length + 3) / 4)).map fun k =>
    .wr (.text (Fin.ofNat 64 k)) (wordOfLanes fun i => codes.getD (4 * k + i) 0x00#8)

/-- `text x, y, "s"` of a string's codes, at most 256 (R90). -/
def textLines (x y : Int) (codes : List Byte) (l : Nat) : List HostLine :=
  textWordLines codes
    ++ [wrInt .textLen codes.length, wrInt .x0 x, wrInt .y0 y, commandLine .drawText false] ++ poll l

/-- `flush` (R90). -/
def flushLines (l : Nat) : List HostLine := commandLine .flush false :: poll l

/-- The check of a host program against R88: every `wr` names a register the map lets a host write to by name (not the
FB window), every `bit1` tests one of 32 bits, every label is defined once and every jump's label is defined. -/
def lineWf (code : List HostLine) : HostLine → Bool
  | .label l => code.countP (· == .label l) == 1
  | .wr (.fb _) _ => false
  | .wr _ _ => true
  | .rd _ _ => true
  | .bit1 _ n l => decide (n < 32) && (labelIndex code l).isSome
  | .jmp l => (labelIndex code l).isSome
  | .access _ => true

/-- A well-formed host program. -/
def programWf (code : List HostLine) : Bool := code.all (lineWf code)

end Sys2Proof.Machine
end

