-- ==== Sys2Proof/Machine/Agents.lean ====
section
/-! DEFINITION. The agents' moves (00_scope R13): the engine's step (70_reset R243), and whose move comes next
(20_memory R61; log entry 1). -/
namespace Sys2Proof.Machine

/-- One step of the engine (70_reset R243). An idle engine, and one that waits for an answer, makes none. -/
def engineStep (s : State) : State :=
  match s.engine with
  | .idle => s
  | .fill i => fillStep i s
  | .pixel => pixelStep s
  | .pixelEnd => complete .ok s
  | .line r => lineStep r s
  | .lineEnd => complete .ok s
  | .text k cx col row => textStep k cx col row s
  | .initClear i => initClearStep i s
  | .initSend n => initSendStep n s
  | .initWait _ => s
  | .initAbort => initAbortStep s
  | .flushSend p j => flushSendStep p j s
  | .flushWait _ _ => s
  | .flushAbort => flushAbortStep s

/-- The opcode the engine runs, `none` for IDLE (10_state R35). -/
def engineOp : Engine → Option Opcode
  | .idle => none
  | .fill _ => some .fill
  | .pixel => some .setPixel
  | .pixelEnd => some .setPixel
  | .line _ => some .drawLine
  | .lineEnd => some .drawLine
  | .text _ _ _ _ => some .drawText
  | .initClear _ => some .init
  | .initSend _ => some .init
  | .initWait _ => some .init
  | .initAbort => some .init
  | .flushSend _ _ => some .flush
  | .flushWait _ _ => some .flush
  | .flushAbort => some .flush

/-- Whose move it is when `sched` fixes none: the Bus Transport's if it can answer, else the engine's if it has a step,
else the host's (log entry 1). -/
def defaultTurn (s : State) : Turn :=
  if waiting s then (if s.answers.isEmpty then .host else .bus)
  else if s.engine = .idle then .host
  else .engine

/-- The next agent, and the state with that turn taken off `sched`. -/
def nextTurn (s : State) : Turn × State :=
  match s.sched with
  | t :: rest => (t, { s with sched := rest })
  | [] => (defaultTurn s, s)

/-- An agent's move: one event of the total order of 20_memory R61. -/
def move (t : Turn) (s : State) : Host.Outcome State Fault Refusal :=
  match t with
  | .host => hostStep s
  | .engine => .next (engineStep s)
  | .bus => .next (busStep s)
  | .reset => .next (resetBlock s)

/-- The running command's next event: the Bus Transport's answer if one is awaited, else the engine's step. -/
def advance (s : State) : State := if waiting s then busStep s else engineStep s

/-- The running command's next `n` events. -/
def advanceN : Nat → State → State
  | 0, s => s
  | n + 1, s => advanceN n (advance s)

end Sys2Proof.Machine
end

