-- ==== Sys2Proof/Machine/Step.lean ====
section
/-! DEFINITION. One step of the machine, and where its next command comes from (log entry 14). -/
namespace Sys2Proof.Machine

/-- One step: the move of the agent whose turn it is (00_scope R13, 20_memory R61). -/
def step (s : State) : Host.Outcome State Fault Refusal := move (nextTurn s).1 (nextTurn s).2

/-- The state in which the host's next line writes the command word of an opcode-table row to CMD, and the next turn is
the host's. -/
def State.withFetchWord (s : State) (nbits w : Nat) : State :=
  { s with host := insertLine (.wr .cmd (tableWord nbits w)) s.host, sched := .host :: s.sched }

end Sys2Proof.Machine
end

