-- ==== Sys2Proof/WellFormed.lean ====
section
/-! DEFINITION. What makes a command, and a block instance's parameters, well-formed. The check of a host program is
in Machine/HostProgram.lean, beside its syntax. -/
namespace Sys2Proof

/-- Every command is well-formed: its one field is a bit, and either value is legal for each command (30_encoding
R82, R86: six opcodes, each with C = 0 or C = 1). -/
def Instr.wf : Instr → Bool
  | .init _ => true
  | .fill _ => true
  | .setPixel _ => true
  | .drawLine _ => true
  | .drawText _ => true
  | .flush _ => true

/-- The legal ranges of 00_scope R7 (with 92 D18 and D20), and the one glyph the source fixes (10_state R33).
DESIGN CHOICE (log entry 23): R7 also gives FB_BYTES the range 8..1024, but its WIDTH and HEIGHT ranges admit products
below 8 (1 by 8 pixels are 1 byte). The ranges of WIDTH and HEIGHT alone are checked, so those builds are legal here. -/
def Params.wf (p : Params) : Bool :=
  decide (1 ≤ p.width) && decide (p.width ≤ 128)
    && decide (p.height % 8 = 0) && decide (8 ≤ p.height) && decide (p.height ≤ 64)
    && decide (9 ≤ p.initSeq.length) && decide (p.initSeq.length ≤ 64)
    && decide (p.glyphRom.length = 256)
    && decide (p.glyphRom[Config.codeZero]? = some (some Config.glyphZero))

end Sys2Proof
end

