-- ==== Sys2Proof/Safety.lean ====
section
/-! DEFINITION. The terms claims use: what a pixel reads, the paths and byte lists of the commands as the spec's
pseudocode gives them, what the host can and cannot reach, and the invariant of a safe run. -/
namespace Sys2Proof.Machine

/-! The framebuffer as pixels. -/

/-- Pixel `(x, y)`, on screen (10_state R21). -/
def pixelOn (s : State) (x y : Int) : Bool := (fbByte s (pixelIndex s.params x y)).getLsbD (pixelBit y)

/-- Whether a list of points has one on screen whose pixel lies in byte `i`. -/
def touches (p : Params) (points : List (Int × Int)) (i : Nat) : Prop :=
  ∃ q ∈ points, onScreen p q.1 q.2 = true ∧ pixelIndex p q.1 q.2 = i

/-! The points and bytes of the commands. -/

/-- The points DRAW_LINE's loop plots from given registers, at most `fuel` (41_line R131). -/
def lineLoop (x1 y1 : Int) : Nat → LineRegs → List (Int × Int)
  | 0, _ => []
  | fuel + 1, r => (r.x, r.y) :: (if r.x = x1 ∧ r.y = y1 then [] else lineLoop x1 y1 fuel (lineMove r))

/-- How many moves the line takes: `dx + dy` (R134). -/
def lineMoves (x0 y0 x1 y1 : Int) : Nat := (x1 - x0).natAbs + (y1 - y0).natAbs

/-- DRAW_LINE's path, in plot order (R131). -/
def linePath (x0 y0 x1 y1 : Int) : List (Int × Int) :=
  lineLoop x1 y1 (lineMoves x0 y0 x1 y1 + 1) (lineStart x0 y0 x1 y1)

/-- The registers after `n` moves. -/
def lineAfter : Nat → LineRegs → LineRegs
  | 0, r => r
  | n + 1, r => lineAfter n (lineMove r)

/-- The set pixels of a glyph drawn at `(cx, y)`: by column, then row (42_text R151, R156, R159). -/
def glyphPoints (g : Glyph) (cx y : Int) : List (Int × Int) :=
  (List.range 6).flatMap fun (col : Nat) =>
    ((List.range 8).filter fun (row : Nat) => glyphPixel g col row).map fun (row : Nat) => (cx + col, y + row)

/-- The points DRAW_TEXT of the registers' text plots, in order (R151): character `k` at cursor `x + 7k`. -/
def textPoints (s : State) : List (Int × Int) :=
  (List.range s.textLen.toNat).flatMap fun (k : Nat) =>
    match glyphOf s.params (textByte s k) with
    | none => []
    | some g => glyphPoints g (coordInt s.x0 + 7 * k) (coordInt s.y0)

/-- The transactions of INIT (43_transfer R181). -/
def initTxns (s : State) : List (List Byte) := s.params.initSeq.map fun b => [0x00#8, b]

/-- Page `p`'s slice of the framebuffer. -/
def pageSlice (s : State) (p : Nat) : List Byte :=
  (List.range s.params.width).map fun k => fbByte s (p * s.params.width + k)

/-- The transactions of FLUSH (R186, R187): for each page, ascending, page-select, low column, high column, and the
page's slice reversed. -/
def flushTxns (s : State) : List (List Byte) :=
  (List.range s.params.pages).flatMap fun p =>
    [[0x00#8, 0xB0#8 ||| BitVec.ofNat 8 p], [0x00#8, 0x02#8], [0x00#8, 0x10#8], 0x40#8 :: (pageSlice s p).reverse]

/-- Log entries at DEV_ADDR with one answer. -/
def logEntries (s : State) (r : Answer) (txns : List (List Byte)) : List Transaction :=
  txns.map fun bytes => ⟨s.devAddr, bytes, some r⟩

/-! Accepted and finished commands. -/

/-- The state in which a command of colour bit `c` has been accepted and the engine starts at `e` (30_encoding R95,
10_state R36). -/
def accepted (c : Bool) (e : Engine) (s : State) : State :=
  { s with
    latch := ⟨s.x0, s.y0, s.x1, s.y1, c, s.textLen⟩
    engine := e
    busy := true
    result := .ok }

/-- The state a command of colour bit `c` leaves (10_state R27): the operands latched, the engine idle, BUSY 0, the
result code, and `fb` and `busLog` as given; all else as before. -/
def finished (c : Bool) (code : ResultCode) (fb : Memory) (log : List Transaction) (s : State) : State :=
  { s with
    latch := ⟨s.x0, s.y0, s.x1, s.y1, c, s.textLen⟩
    engine := .idle
    busy := false
    result := code
    fb := fb
    busLog := log }

/-! What the host reaches. -/

/-- The block without what a host can do to it while BUSY is 1: DROP, and the host's own record and schedule. -/
def engineView (s : State) : State :=
  { s with drop := false, hostReads := [], host := ⟨[], 0, []⟩, sched := [] }

/-- The line the host's next move runs. -/
def nextLine (s : State) : Option HostLine := s.host.code[s.host.pc]?

/-- The word an aligned 32-bit write puts at an offset, if the line is one. -/
def lineWrite : HostLine → Option (Offset × Word)
  | .wr n v => some (offsetOf n, v)
  | .access (.write .b32 o v) => if o.toNat % 4 = 0 then some (o, v.setWidth 32) else none
  | _ => none

/-! The invariant. -/

/-- Every byte of the framebuffer is written, with 0x00. -/
def fbCleared (s : State) : Prop := ∀ i < s.params.fbBytes, s.fb.lookup i = some 0x00#8

/-- The last log entry is the running command's, at DEV_ADDR, and has no answer. -/
def lastUnanswered (s : State) : Prop := ∃ log bytes, s.busLog = log ++ [⟨s.devAddr, bytes, none⟩]

/-- The registers stand after `i` x-moves and `j` y-moves of the latched line (41_line R136). -/
def onLine (l : Latches) (r : LineRegs) : Prop :=
  ∃ i j : Nat,
    i ≤ (coordInt l.lx1 - coordInt l.lx0).natAbs ∧ j ≤ (coordInt l.ly1 - coordInt l.ly0).natAbs
    ∧ r.dx = (coordInt l.lx1 - coordInt l.lx0).natAbs ∧ r.dy = (coordInt l.ly1 - coordInt l.ly0).natAbs
    ∧ r.sx = (coordInt l.lx1 - coordInt l.lx0).sign ∧ r.sy = (coordInt l.ly1 - coordInt l.ly0).sign
    ∧ r.x = coordInt l.lx0 + i * r.sx ∧ r.y = coordInt l.ly0 + j * r.sy
    ∧ r.e = r.dx * (2 * j + 1) - r.dy * (2 * i + 1)

/-- The engine's progress is one its command can have. -/
def engineOk (s : State) : Prop :=
  match s.engine with
  | .idle => True
  | .fill i => i ≤ s.params.fbBytes
  | .pixel => True
  | .pixelEnd => True
  | .line r => onLine s.latch r
  | .lineEnd => True
  | .text k cx col row =>
    k ≤ s.latch.llen.toNat ∧ cx = coordInt s.latch.lx0 + 7 * k ∧ col < 6 ∧ row < 8
  | .initClear i => i < s.params.fbBytes ∧ ∀ j < i, s.fb.lookup j = some 0x00#8
  | .initSend n => n ≤ s.params.initSeq.length ∧ fbCleared s
  | .initWait n => n < s.params.initSeq.length ∧ fbCleared s ∧ lastUnanswered s
  | .initAbort => fbCleared s
  | .flushSend p j => p ≤ s.params.pages ∧ j < 4 ∧ (p = s.params.pages → j = 0)
  | .flushWait p j => p < s.params.pages ∧ j < 4 ∧ lastUnanswered s
  | .flushAbort => True

/-- The invariant of a safe run. -/
structure Inv (s : State) : Prop where
  /-- the parameters are legal (00_scope R7) -/
  params_wf : s.params.wf = true
  /-- FB is in canonical form -/
  fb_wf : s.fb.wf = true
  /-- FB lists only bytes it has (10_state R21) -/
  fb_range : ∀ cell ∈ s.fb, cell.1 < s.params.fbBytes
  /-- TEXT is in canonical form -/
  text_wf : s.text.wf = true
  /-- TEXT lists only bytes it has (R30) -/
  text_range : ∀ cell ∈ s.text, cell.1 < 256
  /-- TEXT_LEN is at most TEXT_MAX (R29) -/
  text_len : s.textLen.toNat ≤ 256
  /-- the engine is idle exactly when BUSY is 0 (R37) -/
  busy_iff : s.busy = true ↔ s.engine ≠ .idle
  /-- STATE is INITIALIZING exactly while INIT runs (R24) -/
  initializing_iff : s.ctl = .initializing ↔ engineOp s.engine = some .init
  /-- every other command runs in READY (R83) -/
  runs_in_ready : s.engine ≠ .idle → engineOp s.engine ≠ some .init → s.ctl = .ready
  /-- RESULT is OK while BUSY is 1 (70_reset R242) -/
  busy_result : s.busy = true → s.result = .ok
  /-- the latches and the registers agree throughout a command (R36) -/
  latch_agrees : s.busy = true → s.latch = latchOperands s.latch.lcolor s
  /-- in READY every byte of FB has been written since the last reset (43_transfer R181) -/
  ready_written : s.ctl = .ready → ∀ i < s.params.fbBytes, (s.fb.lookup i).isSome = true
  /-- in FAILED every byte of FB is 0x00 (R184) -/
  failed_cleared : s.ctl = .failed → fbCleared s
  /-- the engine's progress is one its command can have (R35) -/
  engine_ok : engineOk s

/-- The legal changes of STATE in one step, a reset apart (10_state R23). -/
def legalCtl : CtlState → CtlState → Bool
  | .uninit, .initializing => true
  | .failed, .initializing => true
  | .initializing, .ready => true
  | .initializing, .failed => true
  | a, b => a == b

end Sys2Proof.Machine
end

