-- ==== Sys2Proof/Certificates/Slice0/Obligations.lean ====
section
/-! DEFINITION. The statements for the provers. Each docstring names the rule of spec/ it formalises, or says that it
states a choice of the model and names the log entry. -/
open Sys2Proof Sys2Proof.Machine

/-! ## Reset -/

/-- 10_state R39: what the registers hold after a reset; the default configuration of 00_scope R7. -/
def Obligations.ResetLeavesTheStatedValues : Prop :=
  State.reset.ctl = .uninit ∧ State.reset.busy = false ∧ State.reset.result = .ok ∧ State.reset.drop = false
    ∧ State.reset.x0 = 0#16 ∧ State.reset.y0 = 0#16 ∧ State.reset.x1 = 0#16 ∧ State.reset.y1 = 0#16
    ∧ State.reset.textLen = 0#9 ∧ State.reset.devAddr = 0x3C#7 ∧ State.reset.engine = .idle
    ∧ wordRead 0x0004#13 State.reset = 0#32 ∧ wordRead 0x001C#13 State.reset = 0x3C#32
    ∧ wordRead 0x0020#13 State.reset = 0x00400080#32

/-- 70_reset R230: a reset puts every register at its reset value and abandons the running command and its outstanding
transaction; 10_state R38: the bus log stays; 70_reset R232: the parameters stay. R30 and R40 leave FB and TEXT
unspecified: that a byte then reads as the free value of the new epoch is the model's choice (log entry 3), and so is
that the host and its record of reads stay as they are (log entry 18). -/
def Obligations.ResetAbandonsTheCommand : Prop :=
  ∀ (s : State) (rest : List Turn), s.sched = .reset :: rest →
    ∃ t, step s = .next t
      ∧ t.ctl = .uninit ∧ t.busy = false ∧ t.result = .ok ∧ t.drop = false
      ∧ t.x0 = 0#16 ∧ t.y0 = 0#16 ∧ t.x1 = 0#16 ∧ t.y1 = 0#16 ∧ t.textLen = 0#9
      ∧ t.devAddr = s.params.devAddrReset ∧ t.engine = .idle ∧ waiting t = false
      ∧ t.busLog = s.busLog ∧ t.params = s.params ∧ t.host = s.host ∧ t.hostReads = s.hostReads
      ∧ (∀ i, fbByte t i = Config.fbAtReset (s.epoch + 1) i)
      ∧ (∀ j, textByte t j = Config.textAtReset (s.epoch + 1) j)

/-- 70_reset R232: no step changes a parameter. -/
def Obligations.ParametersNeverChange : Prop :=
  ∀ s t : State, step s = .next t → t.params = s.params

/-! ## The invariant -/

/-- The invariant holds at reset, whatever the free values of INIT_SEQ and the glyphs, which with the other parameters of
`State.reset` are the model's choice (log entry 4). -/
def Obligations.ResetSatisfiesTheInvariant : Prop := Inv State.reset

/-- Every step of every agent, reset included, keeps the invariant (10_state R21, R24, R29, R30, R36, R37, 41_line
R136, 43_transfer R184, 70_reset R242). -/
def Obligations.StepKeepsTheInvariant : Prop :=
  ∀ s t : State, Inv s → step s = .next t → Inv t

/-- 10_state R23: the legal transitions of STATE: a step that changes it is a reset, or one of the table's. -/
def Obligations.StateTransitionsAreLegal : Prop :=
  ∀ s t : State, Inv s → step s = .next t →
    ((nextTurn s).1 = .reset ∧ t.ctl = .uninit) ∨ legalCtl s.ctl t.ctl = true

/-- 43_transfer R170, R171: a step leaves the bus log as it is, or issues one non-empty transaction at DEV_ADDR when
none is outstanding, or records the answer of the one outstanding transaction, which is the log's last. -/
def Obligations.OneTransactionOutstanding : Prop :=
  ∀ s t : State, Inv s → step s = .next t →
    t.busLog = s.busLog
      ∨ (waiting s = false ∧ waiting t = true
          ∧ ∃ bytes, bytes ≠ [] ∧ t.busLog = s.busLog ++ [⟨s.devAddr, bytes, none⟩])
      ∨ (waiting s = true ∧ waiting t = false
          ∧ ∃ log bytes r, s.busLog = log ++ [⟨s.devAddr, bytes, none⟩]
              ∧ t.busLog = log ++ [⟨s.devAddr, bytes, some r⟩])

/-! ## Encoding -/

/-- Decoding and encoding agree both ways: a word decodes to a command exactly when it is that command's word. -/
def Obligations.DecodeInvertsEncode : Prop :=
  ∀ (w : Word) (i : Instr), decode w = .ok i ↔ w = encode i

/-- 30_encoding R86: every 32-bit value is a legal command word (`w[31:5] = 0` and `w[3:0]` in 1..6), one of twelve, or
an illegal one. -/
def Obligations.LegalWordsAreTheTwelve : Prop :=
  ∀ w : Word,
    ((∃ i, decode w = .ok i) ↔ w.toNat / 32 = 0 ∧ 1 ≤ w.toNat % 16 ∧ w.toNat % 16 ≤ 6)
      ∧ ((∃ i, decode w = .ok i) ↔
          w ∈ [0x01#32, 0x11#32, 0x02#32, 0x12#32, 0x03#32, 0x13#32, 0x04#32, 0x14#32, 0x05#32, 0x15#32, 0x06#32,
            0x16#32])
      ∧ ((∃ i, decode w = .ok i) ∨ (∃ e, decode w = .error e))

/-- 30_encoding R86, R89, R91: each of the twelve legal words decodes to the command it stands for, and the two illegal
words of R91's examples are refused, each for the reason R91 gives. -/
def Obligations.WordsOfTheSpecDecode : Prop :=
  decode 0x00000001#32 = .ok (.init false) ∧ decode 0x00000011#32 = .ok (.init true)
    ∧ decode 0x00000002#32 = .ok (.fill false) ∧ decode 0x00000012#32 = .ok (.fill true)
    ∧ decode 0x00000003#32 = .ok (.setPixel false) ∧ decode 0x00000013#32 = .ok (.setPixel true)
    ∧ decode 0x00000004#32 = .ok (.drawLine false) ∧ decode 0x00000014#32 = .ok (.drawLine true)
    ∧ decode 0x00000005#32 = .ok (.drawText false) ∧ decode 0x00000015#32 = .ok (.drawText true)
    ∧ decode 0x00000006#32 = .ok (.flush false) ∧ decode 0x00000016#32 = .ok (.flush true)
    ∧ decode 0x00000007#32 = .error .reservedOpcode ∧ decode 0x00000022#32 = .error .reservedBits

/-- The byte form of a command: its four bytes, whatever follows, decode to it and leave what follows. The spec gives a
command word no bytes: the byte form is the model's choice (log entry 8). -/
def Obligations.CommandBytesDecode : Prop :=
  ∀ (i : Instr) (rest : List Byte), decodeBytes (encodeBytes i ++ rest) = .ok (i, rest)

/-! ## The command port -/

/-- A step runs the decoded command: where the host's next line is an aligned 32-bit write to CMD of a word that decodes
to `i`, a step of the host is `exec i` of the state in which that turn is taken and the host stands at its next line. The host's
program and its lines are the model's choice (log entries 1 and 9). -/
def Obligations.StepRunsTheDecodedCommand : Prop :=
  ∀ (s : State) (i : Instr) (line : HostLine) (o : Offset) (w : Word),
    (nextTurn s).1 = .host → nextLine s = some line → lineWrite line = some (o, w) → o = 0x0000#13 →
    decode w = .ok i → step s = exec i (advanceHost (nextTurn s).2)

/-- 30_encoding R87, R96: with BUSY 0, an illegal word (a reserved bit set, or opcode 0x0 or 0x7..0xF) changes RESULT to
ILLEGAL_COMMAND and nothing else. -/
def Obligations.IllegalWordIsRejected : Prop :=
  ∀ (s : State) (w : Word), s.busy = false →
    (w.toNat / 32 ≠ 0 ∨ w.toNat % 16 = 0 ∨ 7 ≤ w.toNat % 16) →
    wordWrite 0x0000#13 w s = .next { s with result := .illegalCommand }

/-- 30_encoding R97: a command write while BUSY is 1 sets DROP and changes nothing else, whatever the word. -/
def Obligations.BusyDropsTheCommand : Prop :=
  ∀ (s : State) (w : Word), s.busy = true → wordWrite 0x0000#13 w s = .next { s with drop := true }

/-- 60_exceptions R205, 30_encoding R96: with BUSY 0, a legal command that STATE does not accept changes RESULT to
BAD_STATE and nothing else: INIT in INITIALIZING or READY, any other command in UNINIT, INITIALIZING or FAILED. -/
def Obligations.WrongStateIsRejected : Prop :=
  ∀ (s : State) (c : Bool), s.busy = false →
    (s.ctl = .initializing ∨ s.ctl = .ready → exec (.init c) s = .next { s with result := .badState })
      ∧ (s.ctl = .uninit ∨ s.ctl = .initializing ∨ s.ctl = .failed →
          exec (.fill c) s = .next { s with result := .badState }
            ∧ exec (.setPixel c) s = .next { s with result := .badState }
            ∧ exec (.drawLine c) s = .next { s with result := .badState }
            ∧ exec (.drawText c) s = .next { s with result := .badState }
            ∧ exec (.flush c) s = .next { s with result := .badState })

/-- 30_encoding R95, 10_state R36: with BUSY 0 and STATE READY, each command but INIT is accepted in one step: the
operands are latched, BUSY is 1, RESULT is OK, the engine stands at the start of the command's rule, and nothing else
changes. That the line's registers and the text cursor get their start values in this same step is the model's choice (log
entry 11). -/
def Obligations.ReadyAcceptsTheCommands : Prop :=
  ∀ (s : State) (c : Bool), s.busy = false → s.ctl = .ready →
    exec (.fill c) s = .next (accepted c (.fill 0) s)
      ∧ exec (.setPixel c) s = .next (accepted c .pixel s)
      ∧ exec (.drawLine c) s
          = .next (accepted c (.line (lineStart (coordInt s.x0) (coordInt s.y0) (coordInt s.x1) (coordInt s.y1))) s)
      ∧ exec (.drawText c) s = .next (accepted c (.text 0 (coordInt s.x0) 0 0) s)
      ∧ exec (.flush c) s = .next (accepted c (.flushSend 0 0) s)

/-- 30_encoding R95: with BUSY 0 and STATE UNINIT or FAILED, INIT is accepted in one step, and STATE becomes
INITIALIZING. -/
def Obligations.InitIsAccepted : Prop :=
  ∀ (s : State) (c : Bool), s.busy = false → s.ctl = .uninit ∨ s.ctl = .failed →
    exec (.init c) s = .next { accepted c (.initClear 0) s with ctl := .initializing }

/-! ## Running a command

`exec` answers the accepted state `t`; the command's own effect is what its engine steps make of `t`, one after another,
up to its completion step (30_encoding R92, 70_reset R243). Each statement names how many steps, and the whole state they
leave. -/

/-- 40_framebuffer R111, R112: FILL runs `FB_BYTES` byte writes and completes with OK; every byte of FB is 0xFF or 0x00
by its colour, and so is every lane of a window word that covers FB, in a last word that FB covers in part too; a word
that FB covers whole reads 0xFFFFFFFF or 0. -/
def Obligations.FillFillsTheFramebuffer : Prop :=
  ∀ (s : State) (c : Bool), s.busy = false → s.ctl = .ready →
    ∃ t fb, exec (.fill c) s = .next t
      ∧ advanceN (s.params.fbBytes + 1) t = finished c .ok fb s.busLog s
      ∧ (∀ i < s.params.fbBytes,
          fbByte (finished c .ok fb s.busLog s) i = if c then 0xFF#8 else 0x00#8)
      ∧ (∀ i, s.params.fbBytes ≤ i → fbByte (finished c .ok fb s.busLog s) i = fbByte s i)
      ∧ (∀ k < 256, ∀ i < 4, 4 * k + i < s.params.fbBytes →
          (wordRead (BitVec.ofNat 13 (0x1000 + 4 * k)) (finished c .ok fb s.busLog s)).extractLsb' (8 * i) 8
            = if c then 0xFF#8 else 0x00#8)
      ∧ (∀ k < 256, 4 * k + 3 < s.params.fbBytes →
          wordRead (BitVec.ofNat 13 (0x1000 + 4 * k)) (finished c .ok fb s.busLog s)
            = if c then 0xFFFFFFFF#32 else 0#32)

/-- 40_framebuffer R113, R115: SET_PIXEL writes the pixel at (X0, Y0), if it is on screen, and completes with OK; every
other pixel, and every byte that does not hold the pixel, reads as before. That a clipped plot is an event of the engine
too is the model's choice (log entry 6). -/
def Obligations.SetPixelWritesOnePixel : Prop :=
  ∀ (s : State) (c : Bool), s.busy = false → s.ctl = .ready →
    ∃ t fb, exec (.setPixel c) s = .next t
      ∧ advanceN 2 t = finished c .ok fb s.busLog s
      ∧ (∀ x y, onScreen s.params x y = true →
          pixelOn (finished c .ok fb s.busLog s) x y
            = if x = coordInt s.x0 ∧ y = coordInt s.y0 then c else pixelOn s x y)
      ∧ (∀ i, ¬ touches s.params [(coordInt s.x0, coordInt s.y0)] i →
          fbByte (finished c .ok fb s.busLog s) i = fbByte s i)

/-- 41_line R131, R137: DRAW_LINE runs `dx + dy + 1` iterations and completes with OK; the pixels of its path that are on
screen take the colour, and every other pixel, and every byte that holds none of the path, reads as before. That an
iteration is one event of the engine where its point is clipped too is the model's choice (log entry 6). -/
def Obligations.DrawLinePlotsItsPath : Prop :=
  ∀ (s : State) (c : Bool), s.busy = false → s.ctl = .ready →
    ∃ t fb, exec (.drawLine c) s = .next t
      ∧ advanceN (lineMoves (coordInt s.x0) (coordInt s.y0) (coordInt s.x1) (coordInt s.y1) + 2) t
          = finished c .ok fb s.busLog s
      ∧ (∀ x y, onScreen s.params x y = true →
          pixelOn (finished c .ok fb s.busLog s) x y
            = if (x, y) ∈ linePath (coordInt s.x0) (coordInt s.y0) (coordInt s.x1) (coordInt s.y1) then c
              else pixelOn s x y)
      ∧ (∀ i, ¬ touches s.params (linePath (coordInt s.x0) (coordInt s.y0) (coordInt s.x1) (coordInt s.y1)) i →
          fbByte (finished c .ok fb s.busLog s) i = fbByte s i)

/-- 41_line R134: the path has `dx + dy + 1` points, from the first endpoint to the second; each move changes exactly one
coordinate by exactly 1, x exactly `dx` times and y exactly `dy` times; no point is plotted twice; and every point lies
between the endpoints. -/
def Obligations.LinePathIsAConnectedChain : Prop :=
  ∀ x0 y0 x1 y1 : Int,
    (linePath x0 y0 x1 y1).length = (x1 - x0).natAbs + (y1 - y0).natAbs + 1
      ∧ (linePath x0 y0 x1 y1).head? = some (x0, y0)
      ∧ (linePath x0 y0 x1 y1).getLast? = some (x1, y1)
      ∧ (linePath x0 y0 x1 y1).IsChain
          (fun a b => (a.1 - b.1).natAbs + (a.2 - b.2).natAbs = 1)
      ∧ ((linePath x0 y0 x1 y1).zip (linePath x0 y0 x1 y1).tail).countP (fun m => m.1.1 != m.2.1) = (x1 - x0).natAbs
      ∧ ((linePath x0 y0 x1 y1).zip (linePath x0 y0 x1 y1).tail).countP (fun m => m.1.2 != m.2.2) = (y1 - y0).natAbs
      ∧ (linePath x0 y0 x1 y1).Nodup
      ∧ ∀ q ∈ linePath x0 y0 x1 y1,
          min x0 x1 ≤ q.1 ∧ q.1 ≤ max x0 x1 ∧ min y0 y1 ≤ q.2 ∧ q.2 ≤ max y0 y1

/-- 41_line R135: after each of the loop's moves, `-2*dy < e <= 2*dx` when `dy > 0`, and `e = dx` when `dy = 0`. -/
def Obligations.LineErrorTermStaysInRange : Prop :=
  ∀ (x0 y0 x1 y1 : Int) (n : Nat), n ≤ lineMoves x0 y0 x1 y1 →
    (0 < (y1 - y0).natAbs →
        -2 * ((y1 - y0).natAbs : Int) < (lineAfter n (lineStart x0 y0 x1 y1)).e
          ∧ (lineAfter n (lineStart x0 y0 x1 y1)).e ≤ 2 * ((x1 - x0).natAbs : Int))
      ∧ ((y1 - y0).natAbs = 0 → (lineAfter n (lineStart x0 y0 x1 y1)).e = ((x1 - x0).natAbs : Int))

/-- 41_line R138: the plots are made in path order: after `m` iterations exactly the first `m` points of the path have
been plotted, so a read in the middle sees a prefix of the path (70_reset R241). That an iteration is one event of the
engine where its point is clipped too is the model's choice (log entry 6): the spec counts unclipped plots only. -/
def Obligations.LinePlotsInPathOrder : Prop :=
  ∀ (s : State) (c : Bool) (m : Nat), s.busy = false → s.ctl = .ready →
    m ≤ lineMoves (coordInt s.x0) (coordInt s.y0) (coordInt s.x1) (coordInt s.y1) + 1 →
    ∃ t, exec (.drawLine c) s = .next t
      ∧ ∀ x y, onScreen s.params x y = true →
          pixelOn (advanceN m t) x y
            = if (x, y) ∈ (linePath (coordInt s.x0) (coordInt s.y0) (coordInt s.x1) (coordInt s.y1)).take m then c
              else pixelOn s x y

/-- 42_text R151, R152, R153: DRAW_TEXT completes with OK after at most 48 events a character and one more; the pixels under
set glyph bits are on, and every other pixel, and every byte that holds none of them, reads as before. The points are
those of 42_text R151's loop. The bound on the events counts those that plot nothing, which is the model's choice (log
entry 6). -/
def Obligations.DrawTextPlotsItsGlyphs : Prop :=
  ∀ (s : State) (c : Bool), s.busy = false → s.ctl = .ready →
    ∃ t fb n, exec (.drawText c) s = .next t
      ∧ n ≤ 48 * s.textLen.toNat + 1
      ∧ advanceN n t = finished c .ok fb s.busLog s
      ∧ (∀ x y, onScreen s.params x y = true →
          pixelOn (finished c .ok fb s.busLog s) x y = if (x, y) ∈ textPoints s then true else pixelOn s x y)
      ∧ (∀ i, ¬ touches s.params (textPoints s) i → fbByte (finished c .ok fb s.busLog s) i = fbByte s i)

/-- 42_text R157: the pixels of character `k` are those under the set bits of its own glyph, in columns
`x + 7k .. x + 7k + 5` and rows `y .. y + 7`, and the text touches no other; column `x + 7k + 6` is
never written; no pixel is written twice; where `y` is a multiple of 8 and on screen, a glyph column falls within one
byte, `FB[cx + col + (y div 8)*WIDTH]`. -/
def Obligations.TextStaysInItsCells : Prop :=
  ∀ s : State,
    (∀ q, q ∈ textPoints s ↔
        ∃ (k col row : Nat) (g : Glyph), k < s.textLen.toNat ∧ glyphOf s.params (textByte s k) = some g
          ∧ col < 6 ∧ row < 8 ∧ glyphPixel g col row = true
          ∧ q = (coordInt s.x0 + 7 * k + col, coordInt s.y0 + row))
      ∧ (∀ q ∈ textPoints s, ∀ k : Nat, q.1 ≠ coordInt s.x0 + 7 * k + 6)
      ∧ (textPoints s).Nodup
      ∧ (coordInt s.y0 % 8 = 0 → 0 ≤ coordInt s.y0 → ∀ q ∈ textPoints s,
          pixelIndex s.params q.1 q.2 = q.1.toNat + (coordInt s.y0).toNat / 8 * s.params.width)

/-- 42_text R158: with the cell at (0, 0) clear beforehand, DRAW_TEXT of the one character 0x30 at (0, 0) leaves exactly
the glyph's bytes in FB[0..5], on any framebuffer at least six columns wide. -/
def Obligations.ZeroGlyphReproducesItsColumns : Prop :=
  ∀ (s : State) (c : Bool), Inv s → s.busy = false → s.ctl = .ready → 6 ≤ s.params.width →
    s.x0 = 0#16 → s.y0 = 0#16 → s.textLen = 1#9 → textByte s 0 = 0x30#8 → (∀ i < 6, fbByte s i = 0x00#8) →
    ∃ t u n, exec (.drawText c) s = .next t ∧ advanceN n t = u ∧ u.busy = false ∧ u.result = .ok
      ∧ fbByte u 0 = 0x3E#8 ∧ fbByte u 1 = 0x51#8 ∧ fbByte u 2 = 0x49#8 ∧ fbByte u 3 = 0x45#8
      ∧ fbByte u 4 = 0x3E#8 ∧ fbByte u 5 = 0x00#8

/-- 43_transfer R181: with every answer OK, INIT clears FB, sends one `[0x00, b]` transaction for each byte of INIT_SEQ
in order, and completes with STATE READY and RESULT OK. -/
def Obligations.InitSendsItsSequence : Prop :=
  ∀ (s : State) (c : Bool) (rest : List Answer), s.params.wf = true → s.busy = false →
    s.ctl = .uninit ∨ s.ctl = .failed → s.answers = List.replicate s.params.initSeq.length .ok ++ rest →
    ∃ t fb, exec (.init c) s = .next t
      ∧ advanceN (s.params.fbBytes + 2 * s.params.initSeq.length + 1) t
          = { finished c .ok fb (s.busLog ++ logEntries s .ok (initTxns s)) s with ctl := .ready, answers := rest }
      ∧ (∀ i < s.params.fbBytes, fb.lookup i = some 0x00#8)
      ∧ (∀ i, s.params.fbBytes ≤ i → fb.lookup i = s.fb.lookup i)

/-- 43_transfer R181, R184, 60_exceptions R203: when transaction `n` of INIT is the first to be answered FAIL, the bytes
after it are not sent, and INIT completes with STATE FAILED and RESULT INIT_ERROR, FB all 0x00. -/
def Obligations.InitStopsAtTheFirstFail : Prop :=
  ∀ (s : State) (c : Bool) (n : Nat) (rest : List Answer), s.params.wf = true → s.busy = false →
    s.ctl = .uninit ∨ s.ctl = .failed → n < s.params.initSeq.length →
    s.answers = List.replicate n .ok ++ .fail :: rest →
    ∃ t fb, exec (.init c) s = .next t
      ∧ advanceN (s.params.fbBytes + 2 * (n + 1) + 1) t
          = { finished c .initError fb
                (s.busLog ++ logEntries s .ok ((initTxns s).take n)
                  ++ logEntries s .fail ((initTxns s)[n]?.toList)) s
              with ctl := .failed, answers := rest }
      ∧ (∀ i < s.params.fbBytes, fb.lookup i = some 0x00#8)
      ∧ (∀ i, s.params.fbBytes ≤ i → fb.lookup i = s.fb.lookup i)

/-- 43_transfer R186, R187, R191: with every answer OK, FLUSH sends the pages in ascending order, each as page-select,
0x02, 0x10 and its slice with the columns reversed, `4 * PAGES` transactions and `PAGES * (WIDTH + 7)` bytes in all, and
completes with OK; FB and STATE do not change. That page `p`'s page-select byte is 0xB0 OR `p` is presumed: the spec takes
0xB0 from general knowledge (log entry 15). -/
def Obligations.FlushSendsEveryPage : Prop :=
  ∀ (s : State) (c : Bool) (rest : List Answer), s.busy = false → s.ctl = .ready →
    s.answers = List.replicate (4 * s.params.pages) .ok ++ rest →
    ∃ t, exec (.flush c) s = .next t
      ∧ advanceN (2 * (4 * s.params.pages) + 1) t
          = { finished c .ok s.fb (s.busLog ++ logEntries s .ok (flushTxns s)) s with answers := rest }
      ∧ (flushTxns s).length = 4 * s.params.pages
      ∧ (flushTxns s).flatten.length = s.params.pages * (s.params.width + 7)

/-- 43_transfer R186, R192, 60_exceptions R202: when transaction `n` of FLUSH is the first to be answered FAIL, nothing
more is sent, and FLUSH completes with TRANSPORT_ERROR; FB and STATE do not change. The page-select bytes of the
transactions sent are 0xB0 OR `p`, which is presumed: the spec takes 0xB0 from general knowledge (log entry 15). -/
def Obligations.FlushStopsAtTheFirstFail : Prop :=
  ∀ (s : State) (c : Bool) (n : Nat) (rest : List Answer), s.busy = false → s.ctl = .ready →
    n < 4 * s.params.pages → s.answers = List.replicate n .ok ++ .fail :: rest →
    ∃ t, exec (.flush c) s = .next t
      ∧ advanceN (2 * (n + 1) + 1) t
          = { finished c .transportError s.fb
                (s.busLog ++ logEntries s .ok ((flushTxns s).take n)
                  ++ logEntries s .fail ((flushTxns s)[n]?.toList)) s
              with answers := rest }

/-- 43_transfer R195: two FLUSH commands that both complete with OK, with no drawing command between, append the same
transactions, byte for byte, to the bus log. Between the two, only the host's moves that leave FB as it is are left open:
the second starts in any READY state with the same FB, DEV_ADDR, parameters and epoch. -/
def Obligations.FlushTwiceSendsTheSameBytes : Prop :=
  ∀ (s v : State) (c d : Bool) (rest rest' : List Answer), s.busy = false → s.ctl = .ready →
    s.answers = List.replicate (4 * s.params.pages) .ok ++ rest →
    v.busy = false → v.ctl = .ready → v.answers = List.replicate (4 * v.params.pages) .ok ++ rest' →
    v.fb = s.fb → v.devAddr = s.devAddr → v.params = s.params → v.epoch = s.epoch →
    ∃ t t' sent, exec (.flush c) s = .next t ∧ exec (.flush d) v = .next t'
      ∧ (advanceN (2 * (4 * s.params.pages) + 1) t).busLog = s.busLog ++ sent
      ∧ (advanceN (2 * (4 * s.params.pages) + 1) t').busLog = v.busLog ++ sent
      ∧ (advanceN (2 * (4 * s.params.pages) + 1) t).result = .ok
      ∧ (advanceN (2 * (4 * s.params.pages) + 1) t').result = .ok

/-- 70_reset R250, 60_exceptions R200: from every busy state of the invariant with at least 64 answers to come (no command
issues more transactions), the running command completes within 131072 events (the iterations of a DRAW_LINE from corner
to corner, and its completion), BUSY 1 until then, and its result code is OK, or TRANSPORT_ERROR of a FLUSH, or INIT_ERROR
of an INIT. The bound counts the model's events, the ones that plot nothing among them (log entry 6), and the answers to
come are the model's list (log entry 2): both are the model's choice. -/
def Obligations.EveryCommandCompletes : Prop :=
  ∀ s : State, Inv s → s.busy = true → 64 ≤ s.answers.length →
    ∃ n ≤ 131072, (advanceN n s).busy = false ∧ (∀ m < n, (advanceN m s).busy = true)
      ∧ ((advanceN n s).result = .ok
          ∨ (engineOp s.engine = some .flush ∧ (advanceN n s).result = .transportError)
          ∨ (engineOp s.engine = some .init ∧ (advanceN n s).result = .initError))

/-- 30_encoding R82: INIT, DRAW_TEXT and FLUSH ignore `C`: a step of the engine in one of them neither reads nor writes
the latched bit. -/
def Obligations.ColourBitIsIgnored : Prop :=
  ∀ (s : State) (b : Bool),
    engineOp s.engine = some .init ∨ engineOp s.engine = some .drawText ∨ engineOp s.engine = some .flush →
    advance { s with latch := { s.latch with lcolor := b } }
      = { advance s with latch := { (advance s).latch with lcolor := b } }

/-- 10_state R36: the command reads only the latches: no event of the engine reads or writes an operand register. -/
def Obligations.EngineReadsOnlyTheLatches : Prop :=
  ∀ (s : State) (a b c d : Coord) (l : BitVec 9),
    advance { s with x0 := a, y0 := b, x1 := c, y1 := d, textLen := l }
      = { advance s with x0 := a, y0 := b, x1 := c, y1 := d, textLen := l }

/-- 30_encoding R94: FILL, SET_PIXEL, DRAW_LINE and DRAW_TEXT never issue a transaction; FLUSH never writes the
framebuffer; INIT writes it only to clear it. -/
def Obligations.DrawingNeverTouchesTheBus : Prop :=
  ∀ s : State,
    (engineOp s.engine = some .fill ∨ engineOp s.engine = some .setPixel ∨ engineOp s.engine = some .drawLine
        ∨ engineOp s.engine = some .drawText → (advance s).busLog = s.busLog)
      ∧ (engineOp s.engine = some .flush → (advance s).fb = s.fb)
      ∧ (engineOp s.engine = some .init → ∀ i, fbByte (advance s) i = fbByte s i ∨ fbByte (advance s) i = 0x00#8)

/-- 40_framebuffer R110, R114: a plot changes bit `y mod 8` of one byte and no other bit of any byte; a clipped plot
changes nothing. -/
def Obligations.PlotWritesOneBit : Prop :=
  ∀ (s : State) (x y : Int) (c : Bool),
    (onScreen s.params x y = false → plot x y c s = s)
      ∧ (onScreen s.params x y = true →
          ∀ i j, j < 8 →
            (fbByte (plot x y c s) i).getLsbD j
              = if i = pixelIndex s.params x y ∧ j = pixelBit y then c else (fbByte s i).getLsbD j)

/-! ## The agents -/

/-- 00_scope R16: the host changes the framebuffer only through commands: no move of the host writes it. -/
def Obligations.HostNeverWritesTheFramebuffer : Prop :=
  ∀ s t : State, (nextTurn s).1 = .host → step s = .next t → ∀ i, fbByte t i = fbByte s i

/-- 30_encoding R92, R97: while BUSY is 1, a step that is no reset makes the running command's next event, or leaves all
of the block but DROP as it is. -/
def Obligations.BusyStepIsTheCommandsNextEvent : Prop :=
  ∀ s t : State, s.busy = true → (nextTurn s).1 ≠ .reset → step s = .next t →
    engineView t = engineView s ∨ engineView t = engineView (advance s)

/-- 70_reset R241, 20_memory R61: whatever the interleaving, as long as the run has not passed a state with BUSY 0, the
block is as some prefix of the command's events left it, DROP apart, and so each framebuffer byte reads as after that
prefix. The prefix is no longer than the run, and holds for the state in which the command has just completed too. -/
def Obligations.BusyBlockIsAPrefixOfTheCommand : Prop :=
  ∀ (k : Nat) (s t : State), s.busy = true → .reset ∉ s.sched → core.run k s = .next t →
    (∃ j < k, ∃ u, core.run j s = .next u ∧ u.busy = false)
      ∨ ∃ m ≤ k, engineView t = engineView (advanceN m s) ∧ ∀ i, fbByte t i = fbByte (advanceN m s) i

/-- 30_encoding R88, R90: the three lines of `poll`, run in a row: STATUS is read into the temporary, and the host goes
back to the label while BUSY is 1 and on past `poll` when it is 0; the block does not change. That a label takes a move
of the host is the model's choice (log entry 9). -/
def Obligations.PollWaitsForTheCommand : Prop :=
  ∀ (s : State) (before rest : List HostLine) (l : Nat) (sched : List Turn),
    s.host.code = before ++ poll l ++ rest → .label l ∉ before → s.host.pc = before.length →
    s.sched = .host :: .host :: .host :: sched →
    core.run 3 s
      = .next { s with
          sched := sched
          hostReads := s.hostReads ++ [⟨.b32, 0x0004#13, (wordRead 0x0004#13 s).zeroExtend 64⟩]
          host := { s.host with
            pc := if s.busy then before.length else before.length + 3
            temps := (l, wordRead 0x0004#13 s) :: s.host.temps } }

/-- Where no turn is fixed, a step makes the running command's next event, if it has one (log entry 1). -/
def Obligations.UnscheduledStepRunsTheEngine : Prop :=
  ∀ s : State, s.sched = [] → s.engine ≠ .idle → (waiting s = true → s.answers ≠ []) → step s = .next (advance s)

/-- 70_reset R250, R243: a transaction with no answer holds the engine, with BUSY 1: no step but a reset changes the
running command, the framebuffer or the bus log. That no answer is an empty list is the model's choice (log entry 2). -/
def Obligations.UnansweredTransactionHolds : Prop :=
  ∀ s t : State, s.busy = true → waiting s = true → s.answers = [] → (nextTurn s).1 ≠ .reset → step s = .next t →
    t.busy = true ∧ t.engine = s.engine ∧ t.busLog = s.busLog ∧ (∀ i, fbByte t i = fbByte s i)

/-- 60_exceptions R206: only a host write of 1 to STATUS bit 8, or a reset, clears DROP; only a host write made while
BUSY is 1, to another offset than STATUS, sets it. -/
def Obligations.DropIsSticky : Prop :=
  ∀ s t : State, step s = .next t →
    (s.drop = true → t.drop = false →
      (nextTurn s).1 = .reset
        ∨ ((nextTurn s).1 = .host
            ∧ ∃ line v, nextLine s = some line ∧ lineWrite line = some (0x0004#13, v) ∧ v.getLsbD 8 = true))
      ∧ (s.drop = false → t.drop = true →
          (nextTurn s).1 = .host ∧ s.busy = true
            ∧ ∃ line o v, nextLine s = some line ∧ lineWrite line = some (o, v) ∧ o ≠ 0x0004#13)

/-- 60_exceptions R211, 10_state R27: RESULT changes only at a reset, at a CMD write with BUSY 0, or at a step of the
engine that ends its command. -/
def Obligations.ResultChangesOnlyAtItsEvents : Prop :=
  ∀ s t : State, step s = .next t → t.result ≠ s.result →
    (nextTurn s).1 = .reset
      ∨ ((nextTurn s).1 = .host ∧ s.busy = false
          ∧ ∃ line w, nextLine s = some line ∧ lineWrite line = some (0x0000#13, w))
      ∨ ((nextTurn s).1 = .engine ∧ t.busy = false ∧ t.engine = .idle)

/-! ## The window -/

/-- 70_reset R240: while BUSY is 1, a host write to any offset but STATUS sets DROP and has no other effect; a misaligned
one, or one that is not 32 bits wide, has no effect at all. -/
def Obligations.BusyWriteOnlySetsDrop : Prop :=
  ∀ (s : State) (size : AccessSize) (o : Offset) (v : BitVec 64), s.busy = true → o ≠ 0x0004#13 →
    hostAccess (.write size o v) s
      = .next (if size = .b32 ∧ o.toNat % 4 = 0 then { s with drop := true } else s)

/-- 20_memory R52: any other access than an aligned 32-bit one has no effect, DROP included, and a read returns 0. -/
def Obligations.OtherAccessesDoNothing : Prop :=
  ∀ (s : State) (size : AccessSize) (o : Offset) (v : BitVec 64), size ≠ .b32 ∨ o.toNat % 4 ≠ 0 →
    hostAccess (.write size o v) s = .next s
      ∧ hostAccess (.read size o) s = .next { s with hostReads := s.hostReads ++ [⟨size, o, 0#64⟩] }

/-- 20_memory R58: a read changes nothing but the host's own record of it, and returns the word at its offset. The record
and its width of 64 bits are the model's choice (log entries 10 and 13). -/
def Obligations.ReadsChangeNothing : Prop :=
  ∀ (s : State) (o : Offset), o.toNat % 4 = 0 →
    hostAccess (.read .b32 o) s
      = .next { s with hostReads := s.hostReads ++ [⟨.b32, o, (wordRead o s).zeroExtend 64⟩] }

/-- 10_state R25, R26: the fields of STATUS. -/
def Obligations.StatusFields : Prop :=
  ∀ s : State,
    (wordRead 0x0004#13 s).getLsbD 0 = s.busy
      ∧ (wordRead 0x0004#13 s).toNat / 2 % 4
          = (match s.ctl with | .uninit => 0 | .initializing => 1 | .ready => 2 | .failed => 3)
      ∧ (wordRead 0x0004#13 s).getLsbD 3 = false
      ∧ (wordRead 0x0004#13 s).toNat / 16 % 16
          = (match s.result with
            | .ok => 0 | .transportError => 1 | .initError => 2 | .illegalCommand => 3 | .badState => 4)
      ∧ (wordRead 0x0004#13 s).getLsbD 8 = s.drop
      ∧ (wordRead 0x0004#13 s).toNat / 512 = 0

/-- 10_state R25: a write to STATUS clears DROP if bit 8 is 1, does nothing else, and is never ignored, BUSY 1 or 0; a
read of STATUS then returns the same word but for its bit 8. -/
def Obligations.StatusWriteClearsDropOnly : Prop :=
  ∀ (s : State) (v : BitVec 64),
    ∃ t, hostAccess (.write .b32 0x0004#13 v) s = .next t
      ∧ t = { s with drop := s.drop && !v.getLsbD 8 }
      ∧ ∀ i < 32, (wordRead 0x0004#13 t).getLsbD i
          = if i = 8 then s.drop && !v.getLsbD 8 else (wordRead 0x0004#13 s).getLsbD i

/-- 10_state R28: with BUSY 0, a write of `v` to a coordinate register stores `v[15:0]` and changes nothing else, and a
read then returns its sign extension. -/
def Obligations.CoordinateRegistersKeepSixteenBits : Prop :=
  ∀ (s : State) (v : Word), s.busy = false →
    (∃ t, wordWrite 0x0008#13 v s = .next t ∧ t = { s with x0 := v.setWidth 16 }
        ∧ wordRead 0x0008#13 t = (v.setWidth 16).signExtend 32)
      ∧ (∃ t, wordWrite 0x000C#13 v s = .next t ∧ t = { s with y0 := v.setWidth 16 }
        ∧ wordRead 0x000C#13 t = (v.setWidth 16).signExtend 32)
      ∧ (∃ t, wordWrite 0x0010#13 v s = .next t ∧ t = { s with x1 := v.setWidth 16 }
        ∧ wordRead 0x0010#13 t = (v.setWidth 16).signExtend 32)
      ∧ (∃ t, wordWrite 0x0014#13 v s = .next t ∧ t = { s with y1 := v.setWidth 16 }
        ∧ wordRead 0x0014#13 t = (v.setWidth 16).signExtend 32)

/-- 10_state R29: with BUSY 0, a write of `v` to TEXT_LEN stores `min(v[15:0], 256)` and changes nothing else; a read
returns the stored value zero-extended. -/
def Obligations.TextLengthSaturates : Prop :=
  ∀ (s : State) (v : Word), s.busy = false →
    ∃ t, wordWrite 0x0018#13 v s = .next t
      ∧ t.textLen.toNat = min (v.toNat % 65536) 256 ∧ t = { s with textLen := t.textLen }
      ∧ (wordRead 0x0018#13 t).toNat = min (v.toNat % 65536) 256

/-- 10_state R31: with BUSY 0, a write of `v` to DEV_ADDR stores `v[6:0]` in UNINIT and FAILED and is ignored in
INITIALIZING and READY; a read returns the stored value zero-extended. -/
def Obligations.DeviceAddressIsFixedOnceInitialised : Prop :=
  ∀ (s : State) (v : Word), s.busy = false →
    (s.ctl = .uninit ∨ s.ctl = .failed →
        ∃ t, wordWrite 0x001C#13 v s = .next t ∧ t = { s with devAddr := v.setWidth 7 }
          ∧ (wordRead 0x001C#13 t).toNat = v.toNat % 128)
      ∧ (s.ctl = .initializing ∨ s.ctl = .ready → wordWrite 0x001C#13 v s = .next s)

/-- 20_memory R55, R56: with BUSY 0, a write to text word `k` sets TEXT[4k..4k+3] to the value's bytes, lowest first, and
no other character and nothing else; a read of the word then returns the value. -/
def Obligations.TextWordsAreLittleEndian : Prop :=
  ∀ (s : State) (k : Nat) (v : Word), s.busy = false → k < 64 →
    ∃ t, wordWrite (BitVec.ofNat 13 (0x0100 + 4 * k)) v s = .next t
      ∧ t = { s with text := t.text }
      ∧ (∀ i < 4, textByte t (4 * k + i) = v.extractLsb' (8 * i) 8)
      ∧ (∀ j, j < 4 * k ∨ 4 * k + 4 ≤ j → textByte t j = textByte s j)
      ∧ wordRead (BitVec.ofNat 13 (0x0100 + 4 * k)) t = v

/-- 20_memory R57: lane `i` of framebuffer word `k` is FB[4k+i], or 0x00 past FB_BYTES. -/
def Obligations.FramebufferWindowLanes : Prop :=
  ∀ (s : State) (k i : Nat), k < 256 → i < 4 →
    (wordRead (BitVec.ofNat 13 (0x1000 + 4 * k)) s).extractLsb' (8 * i) 8
      = if 4 * k + i < s.params.fbBytes then fbByte s (4 * k + i) else 0x00#8

/-- 20_memory R54: a write to GEOMETRY, to the FB window or to a reserved offset changes nothing, but for DROP where BUSY
is 1; a reserved offset reads 0. -/
def Obligations.ReadOnlyOffsetsIgnoreWrites : Prop :=
  ∀ (s : State) (o : Offset) (v : Word),
    (o = 0x0020#13 ∨ (0x1000 ≤ o.toNat ∧ o.toNat < 0x1400) →
        wordWrite o v s = .next (if s.busy then { s with drop := true } else s))
      ∧ ((0x0024 ≤ o.toNat ∧ o.toNat < 0x0100) ∨ (0x0200 ≤ o.toNat ∧ o.toNat < 0x1000) ∨ 0x1400 ≤ o.toNat →
          wordWrite o v s = .next (if s.busy then { s with drop := true } else s) ∧ wordRead o s = 0#32)

/-- 10_state R32, 20_memory R53: GEOMETRY holds WIDTH in bits 15:0 and HEIGHT in bits 31:16, and CMD reads 0. -/
def Obligations.GeometryAndCommandRead : Prop :=
  ∀ s : State, s.params.wf = true →
    (wordRead 0x0020#13 s).toNat = s.params.height * 65536 + s.params.width ∧ wordRead 0x0000#13 s = 0#32
end

