-- ==== Sys2Proof/Laws/Memory.lean ====
section
/-! SUPPORT. Byte memories: what a write leaves at each address, and that it keeps the canonical form. -/
namespace Sys2Proof.Machine

namespace Memory

@[simp] theorem lookup_nil (a : Nat) : Memory.lookup [] a = none := rfl

theorem lookup_write (m : Memory) (a b : Nat) (v : Byte) :
    (m.write a v).lookup b = if b = a then some v else m.lookup b := by
  induction m with
  | nil => simp [Memory.write, Memory.lookup]
  | cons c m ih =>
    obtain ⟨k, u⟩ := c
    simp only [Memory.write]
    split
    · rfl
    · split
      · next h => subst h; simp only [Memory.lookup]; split <;> rfl
      · next h => simp only [Memory.lookup, ih]; grind

@[simp] theorem lookup_write_same (m : Memory) (a : Nat) (v : Byte) : (m.write a v).lookup a = some v := by
  simp [lookup_write]

theorem lookup_write_other (m : Memory) {a b : Nat} (v : Byte) (h : b ≠ a) :
    (m.write a v).lookup b = m.lookup b := by
  simp [lookup_write, h]

/-- The cells of a written memory are the new one and old ones. -/
theorem mem_write {m : Memory} {a : Nat} {v : Byte} {c : Host.Cell} (h : c ∈ m.write a v) : c = (a, v) ∨ c ∈ m := by
  induction m with
  | nil => simpa [Memory.write] using h
  | cons d m ih =>
    obtain ⟨k, u⟩ := d
    simp only [Memory.write] at h
    split at h
    · simpa using h
    · split at h
      · next heq => subst heq; simp only [List.mem_cons] at h ⊢; tauto
      · simp only [List.mem_cons] at h ⊢
        rcases h with h | h
        · exact .inr (.inl h)
        · rcases ih h with h | h
          · exact .inl h
          · exact .inr (.inr h)

theorem wf_tail {c : Host.Cell} {m : Memory} (h : Memory.wf (c :: m) = true) : Memory.wf m = true := by
  cases m with
  | nil => rfl
  | cons d m => simp only [Memory.wf, Bool.and_eq_true] at h; exact h.2

/-- In canonical form the first address is below every other. -/
theorem wf_head_lt {c : Host.Cell} {m : Memory} (h : Memory.wf (c :: m) = true) : ∀ d ∈ m, c.1 < d.1 := by
  induction m generalizing c with
  | nil => simp
  | cons e m ih =>
    simp only [Memory.wf, Bool.and_eq_true, decide_eq_true_eq] at h
    intro d hd
    rcases List.mem_cons.mp hd with rfl | hd
    · exact h.1
    · exact h.1.trans (ih h.2 d hd)

theorem wf_cons {c : Host.Cell} {m : Memory} (hm : Memory.wf m = true) (h : ∀ d ∈ m, c.1 < d.1) :
    Memory.wf (c :: m) = true := by
  cases m with
  | nil => rfl
  | cons d m => simp [Memory.wf, hm, h d (by simp)]

/-- A write keeps the canonical form. -/
theorem wf_write {m : Memory} (a : Nat) (v : Byte) (h : m.wf = true) : (m.write a v).wf = true := by
  induction m with
  | nil => rfl
  | cons c m ih =>
    obtain ⟨k, u⟩ := c
    have hlt := wf_head_lt h
    simp only [Memory.write]
    split
    · next hk =>
      refine wf_cons h fun d hd => ?_
      rcases List.mem_cons.mp hd with rfl | hd
      · exact hk
      · exact hk.trans (hlt d hd)
    · split
      · next heq => subst heq; exact wf_cons (wf_tail h) hlt
      · refine wf_cons (ih (wf_tail h)) fun d hd => ?_
        rcases mem_write hd with rfl | hd
        · simp only; omega
        · exact hlt d hd

end Memory

/-! The framebuffer's and the text buffer's bytes. -/

theorem fbByte_setFbByte (s : State) (i j : Nat) (v : Byte) :
    fbByte (setFbByte i v s) j = if j = i then v else fbByte s j := by
  simp only [fbByte, setFbByte, Memory.lookup_write]
  split <;> rfl

theorem textByte_setTextByte (s : State) (i j : Nat) (v : Byte) :
    textByte (setTextByte i v s) j = if j = i then v else textByte s j := by
  simp only [textByte, setTextByte, Memory.lookup_write]
  split <;> rfl

@[simp] theorem fbByte_setTextByte (s : State) (i j : Nat) (v : Byte) :
    fbByte (setTextByte i v s) j = fbByte s j := rfl

@[simp] theorem textByte_setFbByte (s : State) (i j : Nat) (v : Byte) :
    textByte (setFbByte i v s) j = textByte s j := rfl

end Sys2Proof.Machine
end

