-- ==== Sys2Proof/Laws/State.lean ====
section
/-! SUPPORT. One lemma per field of State for each named update: what the update leaves in the field. -/
namespace Sys2Proof.Machine

/-! `setFbByte`. -/

@[simp] theorem setFbByte_params (i : Nat) (v : Byte) (s : State) : (setFbByte i v s).params = s.params := rfl

@[simp] theorem setFbByte_fb (i : Nat) (v : Byte) (s : State) : (setFbByte i v s).fb = s.fb.write i v := rfl

@[simp] theorem setFbByte_ctl (i : Nat) (v : Byte) (s : State) : (setFbByte i v s).ctl = s.ctl := rfl

@[simp] theorem setFbByte_busy (i : Nat) (v : Byte) (s : State) : (setFbByte i v s).busy = s.busy := rfl

@[simp] theorem setFbByte_result (i : Nat) (v : Byte) (s : State) : (setFbByte i v s).result = s.result := rfl

@[simp] theorem setFbByte_drop (i : Nat) (v : Byte) (s : State) : (setFbByte i v s).drop = s.drop := rfl

@[simp] theorem setFbByte_x0 (i : Nat) (v : Byte) (s : State) : (setFbByte i v s).x0 = s.x0 := rfl

@[simp] theorem setFbByte_y0 (i : Nat) (v : Byte) (s : State) : (setFbByte i v s).y0 = s.y0 := rfl

@[simp] theorem setFbByte_x1 (i : Nat) (v : Byte) (s : State) : (setFbByte i v s).x1 = s.x1 := rfl

@[simp] theorem setFbByte_y1 (i : Nat) (v : Byte) (s : State) : (setFbByte i v s).y1 = s.y1 := rfl

@[simp] theorem setFbByte_textLen (i : Nat) (v : Byte) (s : State) : (setFbByte i v s).textLen = s.textLen := rfl

@[simp] theorem setFbByte_text (i : Nat) (v : Byte) (s : State) : (setFbByte i v s).text = s.text := rfl

@[simp] theorem setFbByte_devAddr (i : Nat) (v : Byte) (s : State) : (setFbByte i v s).devAddr = s.devAddr := rfl

@[simp] theorem setFbByte_engine (i : Nat) (v : Byte) (s : State) : (setFbByte i v s).engine = s.engine := rfl

@[simp] theorem setFbByte_latch (i : Nat) (v : Byte) (s : State) : (setFbByte i v s).latch = s.latch := rfl

@[simp] theorem setFbByte_busLog (i : Nat) (v : Byte) (s : State) : (setFbByte i v s).busLog = s.busLog := rfl

@[simp] theorem setFbByte_hostReads (i : Nat) (v : Byte) (s : State) : (setFbByte i v s).hostReads = s.hostReads :=
  rfl

@[simp] theorem setFbByte_answers (i : Nat) (v : Byte) (s : State) : (setFbByte i v s).answers = s.answers := rfl

@[simp] theorem setFbByte_host (i : Nat) (v : Byte) (s : State) : (setFbByte i v s).host = s.host := rfl

@[simp] theorem setFbByte_sched (i : Nat) (v : Byte) (s : State) : (setFbByte i v s).sched = s.sched := rfl

@[simp] theorem setFbByte_epoch (i : Nat) (v : Byte) (s : State) : (setFbByte i v s).epoch = s.epoch := rfl

/-! `setTextByte`. -/

@[simp] theorem setTextByte_params (j : Nat) (v : Byte) (s : State) : (setTextByte j v s).params = s.params := rfl

@[simp] theorem setTextByte_fb (j : Nat) (v : Byte) (s : State) : (setTextByte j v s).fb = s.fb := rfl

@[simp] theorem setTextByte_ctl (j : Nat) (v : Byte) (s : State) : (setTextByte j v s).ctl = s.ctl := rfl

@[simp] theorem setTextByte_busy (j : Nat) (v : Byte) (s : State) : (setTextByte j v s).busy = s.busy := rfl

@[simp] theorem setTextByte_result (j : Nat) (v : Byte) (s : State) : (setTextByte j v s).result = s.result := rfl

@[simp] theorem setTextByte_drop (j : Nat) (v : Byte) (s : State) : (setTextByte j v s).drop = s.drop := rfl

@[simp] theorem setTextByte_x0 (j : Nat) (v : Byte) (s : State) : (setTextByte j v s).x0 = s.x0 := rfl

@[simp] theorem setTextByte_y0 (j : Nat) (v : Byte) (s : State) : (setTextByte j v s).y0 = s.y0 := rfl

@[simp] theorem setTextByte_x1 (j : Nat) (v : Byte) (s : State) : (setTextByte j v s).x1 = s.x1 := rfl

@[simp] theorem setTextByte_y1 (j : Nat) (v : Byte) (s : State) : (setTextByte j v s).y1 = s.y1 := rfl

@[simp] theorem setTextByte_textLen (j : Nat) (v : Byte) (s : State) : (setTextByte j v s).textLen = s.textLen := rfl

@[simp] theorem setTextByte_text (j : Nat) (v : Byte) (s : State) : (setTextByte j v s).text = s.text.write j v :=
  rfl

@[simp] theorem setTextByte_devAddr (j : Nat) (v : Byte) (s : State) : (setTextByte j v s).devAddr = s.devAddr := rfl

@[simp] theorem setTextByte_engine (j : Nat) (v : Byte) (s : State) : (setTextByte j v s).engine = s.engine := rfl

@[simp] theorem setTextByte_latch (j : Nat) (v : Byte) (s : State) : (setTextByte j v s).latch = s.latch := rfl

@[simp] theorem setTextByte_busLog (j : Nat) (v : Byte) (s : State) : (setTextByte j v s).busLog = s.busLog := rfl

@[simp] theorem setTextByte_hostReads (j : Nat) (v : Byte) (s : State) : (setTextByte j v s).hostReads = s.hostReads :=
  rfl

@[simp] theorem setTextByte_answers (j : Nat) (v : Byte) (s : State) : (setTextByte j v s).answers = s.answers := rfl

@[simp] theorem setTextByte_host (j : Nat) (v : Byte) (s : State) : (setTextByte j v s).host = s.host := rfl

@[simp] theorem setTextByte_sched (j : Nat) (v : Byte) (s : State) : (setTextByte j v s).sched = s.sched := rfl

@[simp] theorem setTextByte_epoch (j : Nat) (v : Byte) (s : State) : (setTextByte j v s).epoch = s.epoch := rfl

/-! `dropWrite`. -/

@[simp] theorem dropWrite_params (s : State) : (dropWrite s).params = s.params := rfl

@[simp] theorem dropWrite_fb (s : State) : (dropWrite s).fb = s.fb := rfl

@[simp] theorem dropWrite_ctl (s : State) : (dropWrite s).ctl = s.ctl := rfl

@[simp] theorem dropWrite_busy (s : State) : (dropWrite s).busy = s.busy := rfl

@[simp] theorem dropWrite_result (s : State) : (dropWrite s).result = s.result := rfl

@[simp] theorem dropWrite_drop (s : State) : (dropWrite s).drop = true := rfl

@[simp] theorem dropWrite_x0 (s : State) : (dropWrite s).x0 = s.x0 := rfl

@[simp] theorem dropWrite_y0 (s : State) : (dropWrite s).y0 = s.y0 := rfl

@[simp] theorem dropWrite_x1 (s : State) : (dropWrite s).x1 = s.x1 := rfl

@[simp] theorem dropWrite_y1 (s : State) : (dropWrite s).y1 = s.y1 := rfl

@[simp] theorem dropWrite_textLen (s : State) : (dropWrite s).textLen = s.textLen := rfl

@[simp] theorem dropWrite_text (s : State) : (dropWrite s).text = s.text := rfl

@[simp] theorem dropWrite_devAddr (s : State) : (dropWrite s).devAddr = s.devAddr := rfl

@[simp] theorem dropWrite_engine (s : State) : (dropWrite s).engine = s.engine := rfl

@[simp] theorem dropWrite_latch (s : State) : (dropWrite s).latch = s.latch := rfl

@[simp] theorem dropWrite_busLog (s : State) : (dropWrite s).busLog = s.busLog := rfl

@[simp] theorem dropWrite_hostReads (s : State) : (dropWrite s).hostReads = s.hostReads := rfl

@[simp] theorem dropWrite_answers (s : State) : (dropWrite s).answers = s.answers := rfl

@[simp] theorem dropWrite_host (s : State) : (dropWrite s).host = s.host := rfl

@[simp] theorem dropWrite_sched (s : State) : (dropWrite s).sched = s.sched := rfl

@[simp] theorem dropWrite_epoch (s : State) : (dropWrite s).epoch = s.epoch := rfl

/-! `reject`. -/

@[simp] theorem reject_params (code : ResultCode) (s : State) : (reject code s).params = s.params := rfl

@[simp] theorem reject_fb (code : ResultCode) (s : State) : (reject code s).fb = s.fb := rfl

@[simp] theorem reject_ctl (code : ResultCode) (s : State) : (reject code s).ctl = s.ctl := rfl

@[simp] theorem reject_busy (code : ResultCode) (s : State) : (reject code s).busy = s.busy := rfl

@[simp] theorem reject_result (code : ResultCode) (s : State) : (reject code s).result = code := rfl

@[simp] theorem reject_drop (code : ResultCode) (s : State) : (reject code s).drop = s.drop := rfl

@[simp] theorem reject_x0 (code : ResultCode) (s : State) : (reject code s).x0 = s.x0 := rfl

@[simp] theorem reject_y0 (code : ResultCode) (s : State) : (reject code s).y0 = s.y0 := rfl

@[simp] theorem reject_x1 (code : ResultCode) (s : State) : (reject code s).x1 = s.x1 := rfl

@[simp] theorem reject_y1 (code : ResultCode) (s : State) : (reject code s).y1 = s.y1 := rfl

@[simp] theorem reject_textLen (code : ResultCode) (s : State) : (reject code s).textLen = s.textLen := rfl

@[simp] theorem reject_text (code : ResultCode) (s : State) : (reject code s).text = s.text := rfl

@[simp] theorem reject_devAddr (code : ResultCode) (s : State) : (reject code s).devAddr = s.devAddr := rfl

@[simp] theorem reject_engine (code : ResultCode) (s : State) : (reject code s).engine = s.engine := rfl

@[simp] theorem reject_latch (code : ResultCode) (s : State) : (reject code s).latch = s.latch := rfl

@[simp] theorem reject_busLog (code : ResultCode) (s : State) : (reject code s).busLog = s.busLog := rfl

@[simp] theorem reject_hostReads (code : ResultCode) (s : State) : (reject code s).hostReads = s.hostReads := rfl

@[simp] theorem reject_answers (code : ResultCode) (s : State) : (reject code s).answers = s.answers := rfl

@[simp] theorem reject_host (code : ResultCode) (s : State) : (reject code s).host = s.host := rfl

@[simp] theorem reject_sched (code : ResultCode) (s : State) : (reject code s).sched = s.sched := rfl

@[simp] theorem reject_epoch (code : ResultCode) (s : State) : (reject code s).epoch = s.epoch := rfl

/-! `accept`. -/

@[simp] theorem accept_params (c : Bool) (e : Engine) (s : State) : (accept c e s).params = s.params := rfl

@[simp] theorem accept_fb (c : Bool) (e : Engine) (s : State) : (accept c e s).fb = s.fb := rfl

@[simp] theorem accept_ctl (c : Bool) (e : Engine) (s : State) : (accept c e s).ctl = s.ctl := rfl

@[simp] theorem accept_busy (c : Bool) (e : Engine) (s : State) : (accept c e s).busy = true := rfl

@[simp] theorem accept_result (c : Bool) (e : Engine) (s : State) : (accept c e s).result = .ok := rfl

@[simp] theorem accept_drop (c : Bool) (e : Engine) (s : State) : (accept c e s).drop = s.drop := rfl

@[simp] theorem accept_x0 (c : Bool) (e : Engine) (s : State) : (accept c e s).x0 = s.x0 := rfl

@[simp] theorem accept_y0 (c : Bool) (e : Engine) (s : State) : (accept c e s).y0 = s.y0 := rfl

@[simp] theorem accept_x1 (c : Bool) (e : Engine) (s : State) : (accept c e s).x1 = s.x1 := rfl

@[simp] theorem accept_y1 (c : Bool) (e : Engine) (s : State) : (accept c e s).y1 = s.y1 := rfl

@[simp] theorem accept_textLen (c : Bool) (e : Engine) (s : State) : (accept c e s).textLen = s.textLen := rfl

@[simp] theorem accept_text (c : Bool) (e : Engine) (s : State) : (accept c e s).text = s.text := rfl

@[simp] theorem accept_devAddr (c : Bool) (e : Engine) (s : State) : (accept c e s).devAddr = s.devAddr := rfl

@[simp] theorem accept_engine (c : Bool) (e : Engine) (s : State) : (accept c e s).engine = e := rfl

@[simp] theorem accept_latch (c : Bool) (e : Engine) (s : State) : (accept c e s).latch = latchOperands c s := rfl

@[simp] theorem accept_busLog (c : Bool) (e : Engine) (s : State) : (accept c e s).busLog = s.busLog := rfl

@[simp] theorem accept_hostReads (c : Bool) (e : Engine) (s : State) : (accept c e s).hostReads = s.hostReads := rfl

@[simp] theorem accept_answers (c : Bool) (e : Engine) (s : State) : (accept c e s).answers = s.answers := rfl

@[simp] theorem accept_host (c : Bool) (e : Engine) (s : State) : (accept c e s).host = s.host := rfl

@[simp] theorem accept_sched (c : Bool) (e : Engine) (s : State) : (accept c e s).sched = s.sched := rfl

@[simp] theorem accept_epoch (c : Bool) (e : Engine) (s : State) : (accept c e s).epoch = s.epoch := rfl

/-! `complete`. -/

@[simp] theorem complete_params (code : ResultCode) (s : State) : (complete code s).params = s.params := rfl

@[simp] theorem complete_fb (code : ResultCode) (s : State) : (complete code s).fb = s.fb := rfl

@[simp] theorem complete_ctl (code : ResultCode) (s : State) : (complete code s).ctl = s.ctl := rfl

@[simp] theorem complete_busy (code : ResultCode) (s : State) : (complete code s).busy = false := rfl

@[simp] theorem complete_result (code : ResultCode) (s : State) : (complete code s).result = code := rfl

@[simp] theorem complete_drop (code : ResultCode) (s : State) : (complete code s).drop = s.drop := rfl

@[simp] theorem complete_x0 (code : ResultCode) (s : State) : (complete code s).x0 = s.x0 := rfl

@[simp] theorem complete_y0 (code : ResultCode) (s : State) : (complete code s).y0 = s.y0 := rfl

@[simp] theorem complete_x1 (code : ResultCode) (s : State) : (complete code s).x1 = s.x1 := rfl

@[simp] theorem complete_y1 (code : ResultCode) (s : State) : (complete code s).y1 = s.y1 := rfl

@[simp] theorem complete_textLen (code : ResultCode) (s : State) : (complete code s).textLen = s.textLen := rfl

@[simp] theorem complete_text (code : ResultCode) (s : State) : (complete code s).text = s.text := rfl

@[simp] theorem complete_devAddr (code : ResultCode) (s : State) : (complete code s).devAddr = s.devAddr := rfl

@[simp] theorem complete_engine (code : ResultCode) (s : State) : (complete code s).engine = .idle := rfl

@[simp] theorem complete_latch (code : ResultCode) (s : State) : (complete code s).latch = s.latch := rfl

@[simp] theorem complete_busLog (code : ResultCode) (s : State) : (complete code s).busLog = s.busLog := rfl

@[simp] theorem complete_hostReads (code : ResultCode) (s : State) : (complete code s).hostReads = s.hostReads := rfl

@[simp] theorem complete_answers (code : ResultCode) (s : State) : (complete code s).answers = s.answers := rfl

@[simp] theorem complete_host (code : ResultCode) (s : State) : (complete code s).host = s.host := rfl

@[simp] theorem complete_sched (code : ResultCode) (s : State) : (complete code s).sched = s.sched := rfl

@[simp] theorem complete_epoch (code : ResultCode) (s : State) : (complete code s).epoch = s.epoch := rfl

/-! `issueTxn`. -/

@[simp] theorem issueTxn_params (bytes : List Byte) (s : State) : (issueTxn bytes s).params = s.params := rfl

@[simp] theorem issueTxn_fb (bytes : List Byte) (s : State) : (issueTxn bytes s).fb = s.fb := rfl

@[simp] theorem issueTxn_ctl (bytes : List Byte) (s : State) : (issueTxn bytes s).ctl = s.ctl := rfl

@[simp] theorem issueTxn_busy (bytes : List Byte) (s : State) : (issueTxn bytes s).busy = s.busy := rfl

@[simp] theorem issueTxn_result (bytes : List Byte) (s : State) : (issueTxn bytes s).result = s.result := rfl

@[simp] theorem issueTxn_drop (bytes : List Byte) (s : State) : (issueTxn bytes s).drop = s.drop := rfl

@[simp] theorem issueTxn_x0 (bytes : List Byte) (s : State) : (issueTxn bytes s).x0 = s.x0 := rfl

@[simp] theorem issueTxn_y0 (bytes : List Byte) (s : State) : (issueTxn bytes s).y0 = s.y0 := rfl

@[simp] theorem issueTxn_x1 (bytes : List Byte) (s : State) : (issueTxn bytes s).x1 = s.x1 := rfl

@[simp] theorem issueTxn_y1 (bytes : List Byte) (s : State) : (issueTxn bytes s).y1 = s.y1 := rfl

@[simp] theorem issueTxn_textLen (bytes : List Byte) (s : State) : (issueTxn bytes s).textLen = s.textLen := rfl

@[simp] theorem issueTxn_text (bytes : List Byte) (s : State) : (issueTxn bytes s).text = s.text := rfl

@[simp] theorem issueTxn_devAddr (bytes : List Byte) (s : State) : (issueTxn bytes s).devAddr = s.devAddr := rfl

@[simp] theorem issueTxn_engine (bytes : List Byte) (s : State) : (issueTxn bytes s).engine = s.engine := rfl

@[simp] theorem issueTxn_latch (bytes : List Byte) (s : State) : (issueTxn bytes s).latch = s.latch := rfl

@[simp] theorem issueTxn_busLog (bytes : List Byte) (s : State) : (issueTxn bytes s).busLog = s.busLog ++ [⟨s.devAddr, bytes, none⟩] :=
  rfl

@[simp] theorem issueTxn_hostReads (bytes : List Byte) (s : State) : (issueTxn bytes s).hostReads = s.hostReads :=
  rfl

@[simp] theorem issueTxn_answers (bytes : List Byte) (s : State) : (issueTxn bytes s).answers = s.answers := rfl

@[simp] theorem issueTxn_host (bytes : List Byte) (s : State) : (issueTxn bytes s).host = s.host := rfl

@[simp] theorem issueTxn_sched (bytes : List Byte) (s : State) : (issueTxn bytes s).sched = s.sched := rfl

@[simp] theorem issueTxn_epoch (bytes : List Byte) (s : State) : (issueTxn bytes s).epoch = s.epoch := rfl

/-! `resetBlock`. -/

@[simp] theorem resetBlock_params (s : State) : (resetBlock s).params = s.params := rfl

@[simp] theorem resetBlock_fb (s : State) : (resetBlock s).fb = [] := rfl

@[simp] theorem resetBlock_ctl (s : State) : (resetBlock s).ctl = .uninit := rfl

@[simp] theorem resetBlock_busy (s : State) : (resetBlock s).busy = false := rfl

@[simp] theorem resetBlock_result (s : State) : (resetBlock s).result = .ok := rfl

@[simp] theorem resetBlock_drop (s : State) : (resetBlock s).drop = false := rfl

@[simp] theorem resetBlock_x0 (s : State) : (resetBlock s).x0 = 0#16 := rfl

@[simp] theorem resetBlock_y0 (s : State) : (resetBlock s).y0 = 0#16 := rfl

@[simp] theorem resetBlock_x1 (s : State) : (resetBlock s).x1 = 0#16 := rfl

@[simp] theorem resetBlock_y1 (s : State) : (resetBlock s).y1 = 0#16 := rfl

@[simp] theorem resetBlock_textLen (s : State) : (resetBlock s).textLen = 0#9 := rfl

@[simp] theorem resetBlock_text (s : State) : (resetBlock s).text = [] := rfl

@[simp] theorem resetBlock_devAddr (s : State) : (resetBlock s).devAddr = s.params.devAddrReset := rfl

@[simp] theorem resetBlock_engine (s : State) : (resetBlock s).engine = .idle := rfl

@[simp] theorem resetBlock_latch (s : State) : (resetBlock s).latch = ⟨0#16, 0#16, 0#16, 0#16, false, 0#9⟩ := rfl

@[simp] theorem resetBlock_busLog (s : State) : (resetBlock s).busLog = s.busLog := rfl

@[simp] theorem resetBlock_hostReads (s : State) : (resetBlock s).hostReads = s.hostReads := rfl

@[simp] theorem resetBlock_answers (s : State) : (resetBlock s).answers = s.answers := rfl

@[simp] theorem resetBlock_host (s : State) : (resetBlock s).host = s.host := rfl

@[simp] theorem resetBlock_sched (s : State) : (resetBlock s).sched = s.sched := rfl

@[simp] theorem resetBlock_epoch (s : State) : (resetBlock s).epoch = s.epoch + 1 := rfl

/-! `advanceHost`. -/

@[simp] theorem advanceHost_params (s : State) : (advanceHost s).params = s.params := rfl

@[simp] theorem advanceHost_fb (s : State) : (advanceHost s).fb = s.fb := rfl

@[simp] theorem advanceHost_ctl (s : State) : (advanceHost s).ctl = s.ctl := rfl

@[simp] theorem advanceHost_busy (s : State) : (advanceHost s).busy = s.busy := rfl

@[simp] theorem advanceHost_result (s : State) : (advanceHost s).result = s.result := rfl

@[simp] theorem advanceHost_drop (s : State) : (advanceHost s).drop = s.drop := rfl

@[simp] theorem advanceHost_x0 (s : State) : (advanceHost s).x0 = s.x0 := rfl

@[simp] theorem advanceHost_y0 (s : State) : (advanceHost s).y0 = s.y0 := rfl

@[simp] theorem advanceHost_x1 (s : State) : (advanceHost s).x1 = s.x1 := rfl

@[simp] theorem advanceHost_y1 (s : State) : (advanceHost s).y1 = s.y1 := rfl

@[simp] theorem advanceHost_textLen (s : State) : (advanceHost s).textLen = s.textLen := rfl

@[simp] theorem advanceHost_text (s : State) : (advanceHost s).text = s.text := rfl

@[simp] theorem advanceHost_devAddr (s : State) : (advanceHost s).devAddr = s.devAddr := rfl

@[simp] theorem advanceHost_engine (s : State) : (advanceHost s).engine = s.engine := rfl

@[simp] theorem advanceHost_latch (s : State) : (advanceHost s).latch = s.latch := rfl

@[simp] theorem advanceHost_busLog (s : State) : (advanceHost s).busLog = s.busLog := rfl

@[simp] theorem advanceHost_hostReads (s : State) : (advanceHost s).hostReads = s.hostReads := rfl

@[simp] theorem advanceHost_answers (s : State) : (advanceHost s).answers = s.answers := rfl

@[simp] theorem advanceHost_host (s : State) : (advanceHost s).host = ⟨s.host.code, s.host.pc + 1, s.host.temps⟩ :=
  rfl

@[simp] theorem advanceHost_sched (s : State) : (advanceHost s).sched = s.sched := rfl

@[simp] theorem advanceHost_epoch (s : State) : (advanceHost s).epoch = s.epoch := rfl

/-! `plot`. -/

@[simp] theorem plot_params (x y : Int) (c : Bool) (s : State) : (plot x y c s).params = s.params := by
  unfold plot; split <;> rfl

@[simp] theorem plot_ctl (x y : Int) (c : Bool) (s : State) : (plot x y c s).ctl = s.ctl := by
  unfold plot; split <;> rfl

@[simp] theorem plot_busy (x y : Int) (c : Bool) (s : State) : (plot x y c s).busy = s.busy := by
  unfold plot; split <;> rfl

@[simp] theorem plot_result (x y : Int) (c : Bool) (s : State) : (plot x y c s).result = s.result := by
  unfold plot; split <;> rfl

@[simp] theorem plot_drop (x y : Int) (c : Bool) (s : State) : (plot x y c s).drop = s.drop := by
  unfold plot; split <;> rfl

@[simp] theorem plot_x0 (x y : Int) (c : Bool) (s : State) : (plot x y c s).x0 = s.x0 := by
  unfold plot; split <;> rfl

@[simp] theorem plot_y0 (x y : Int) (c : Bool) (s : State) : (plot x y c s).y0 = s.y0 := by
  unfold plot; split <;> rfl

@[simp] theorem plot_x1 (x y : Int) (c : Bool) (s : State) : (plot x y c s).x1 = s.x1 := by
  unfold plot; split <;> rfl

@[simp] theorem plot_y1 (x y : Int) (c : Bool) (s : State) : (plot x y c s).y1 = s.y1 := by
  unfold plot; split <;> rfl

@[simp] theorem plot_textLen (x y : Int) (c : Bool) (s : State) : (plot x y c s).textLen = s.textLen := by
  unfold plot; split <;> rfl

@[simp] theorem plot_text (x y : Int) (c : Bool) (s : State) : (plot x y c s).text = s.text := by
  unfold plot; split <;> rfl

@[simp] theorem plot_devAddr (x y : Int) (c : Bool) (s : State) : (plot x y c s).devAddr = s.devAddr := by
  unfold plot; split <;> rfl

@[simp] theorem plot_engine (x y : Int) (c : Bool) (s : State) : (plot x y c s).engine = s.engine := by
  unfold plot; split <;> rfl

@[simp] theorem plot_latch (x y : Int) (c : Bool) (s : State) : (plot x y c s).latch = s.latch := by
  unfold plot; split <;> rfl

@[simp] theorem plot_busLog (x y : Int) (c : Bool) (s : State) : (plot x y c s).busLog = s.busLog := by
  unfold plot; split <;> rfl

@[simp] theorem plot_hostReads (x y : Int) (c : Bool) (s : State) : (plot x y c s).hostReads = s.hostReads := by
  unfold plot; split <;> rfl

@[simp] theorem plot_answers (x y : Int) (c : Bool) (s : State) : (plot x y c s).answers = s.answers := by
  unfold plot; split <;> rfl

@[simp] theorem plot_host (x y : Int) (c : Bool) (s : State) : (plot x y c s).host = s.host := by
  unfold plot; split <;> rfl

@[simp] theorem plot_sched (x y : Int) (c : Bool) (s : State) : (plot x y c s).sched = s.sched := by
  unfold plot; split <;> rfl

@[simp] theorem plot_epoch (x y : Int) (c : Bool) (s : State) : (plot x y c s).epoch = s.epoch := by
  unfold plot; split <;> rfl

/-! `statusWrite`. -/

@[simp] theorem statusWrite_params (v : Word) (s : State) : (statusWrite v s).params = s.params := by
  unfold statusWrite; split <;> rfl

@[simp] theorem statusWrite_fb (v : Word) (s : State) : (statusWrite v s).fb = s.fb := by
  unfold statusWrite; split <;> rfl

@[simp] theorem statusWrite_ctl (v : Word) (s : State) : (statusWrite v s).ctl = s.ctl := by
  unfold statusWrite; split <;> rfl

@[simp] theorem statusWrite_busy (v : Word) (s : State) : (statusWrite v s).busy = s.busy := by
  unfold statusWrite; split <;> rfl

@[simp] theorem statusWrite_result (v : Word) (s : State) : (statusWrite v s).result = s.result := by
  unfold statusWrite; split <;> rfl

@[simp] theorem statusWrite_x0 (v : Word) (s : State) : (statusWrite v s).x0 = s.x0 := by
  unfold statusWrite; split <;> rfl

@[simp] theorem statusWrite_y0 (v : Word) (s : State) : (statusWrite v s).y0 = s.y0 := by
  unfold statusWrite; split <;> rfl

@[simp] theorem statusWrite_x1 (v : Word) (s : State) : (statusWrite v s).x1 = s.x1 := by
  unfold statusWrite; split <;> rfl

@[simp] theorem statusWrite_y1 (v : Word) (s : State) : (statusWrite v s).y1 = s.y1 := by
  unfold statusWrite; split <;> rfl

@[simp] theorem statusWrite_textLen (v : Word) (s : State) : (statusWrite v s).textLen = s.textLen := by
  unfold statusWrite; split <;> rfl

@[simp] theorem statusWrite_text (v : Word) (s : State) : (statusWrite v s).text = s.text := by
  unfold statusWrite; split <;> rfl

@[simp] theorem statusWrite_devAddr (v : Word) (s : State) : (statusWrite v s).devAddr = s.devAddr := by
  unfold statusWrite; split <;> rfl

@[simp] theorem statusWrite_engine (v : Word) (s : State) : (statusWrite v s).engine = s.engine := by
  unfold statusWrite; split <;> rfl

@[simp] theorem statusWrite_latch (v : Word) (s : State) : (statusWrite v s).latch = s.latch := by
  unfold statusWrite; split <;> rfl

@[simp] theorem statusWrite_busLog (v : Word) (s : State) : (statusWrite v s).busLog = s.busLog := by
  unfold statusWrite; split <;> rfl

@[simp] theorem statusWrite_hostReads (v : Word) (s : State) : (statusWrite v s).hostReads = s.hostReads := by
  unfold statusWrite; split <;> rfl

@[simp] theorem statusWrite_answers (v : Word) (s : State) : (statusWrite v s).answers = s.answers := by
  unfold statusWrite; split <;> rfl

@[simp] theorem statusWrite_host (v : Word) (s : State) : (statusWrite v s).host = s.host := by
  unfold statusWrite; split <;> rfl

@[simp] theorem statusWrite_sched (v : Word) (s : State) : (statusWrite v s).sched = s.sched := by
  unfold statusWrite; split <;> rfl

@[simp] theorem statusWrite_epoch (v : Word) (s : State) : (statusWrite v s).epoch = s.epoch := by
  unfold statusWrite; split <;> rfl

end Sys2Proof.Machine
end

