-- ==== Sys2Proof/Laws/Ops.lean ====
section
/-! SUPPORT. One specification lemma for each shared operation: everything it can do. -/
namespace Sys2Proof.Machine

/-! The acceptance procedure. -/

/-- The acceptance procedure drops, accepts or rejects, in that order of precedence (60_exceptions R207). -/
theorem issue_cases (ok : CtlState → Bool) (start : State → State) (s : State) :
    (s.busy = true ∧ issue ok start s = dropWrite s)
      ∨ (s.busy = false ∧ ok s.ctl = true ∧ issue ok start s = start s)
      ∨ (s.busy = false ∧ ok s.ctl = false ∧ issue ok start s = reject .badState s) := by
  unfold issue
  cases hb : s.busy <;> cases ho : ok s.ctl <;> simp

theorem issue_busy {s : State} (ok : CtlState → Bool) (start : State → State) (h : s.busy = true) :
    issue ok start s = dropWrite s := by simp [issue, h]

theorem issue_accepts {s : State} {ok : CtlState → Bool} (start : State → State) (h : s.busy = false)
    (ho : ok s.ctl = true) : issue ok start s = start s := by simp [issue, h, ho]

theorem issue_rejects {s : State} {ok : CtlState → Bool} (start : State → State) (h : s.busy = false)
    (ho : ok s.ctl = false) : issue ok start s = reject .badState s := by simp [issue, h, ho]

@[simp] theorem acceptsDrawing_iff (c : CtlState) : acceptsDrawing c = true ↔ c = .ready := by
  cases c <;> decide

@[simp] theorem acceptsInit_iff (c : CtlState) : acceptsInit c = true ↔ c = .uninit ∨ c = .failed := by
  cases c <;> decide

/-! The plot datapath. -/

theorem onScreen_iff (p : Params) (x y : Int) :
    onScreen p x y = true ↔ 0 ≤ x ∧ x < p.width ∧ 0 ≤ y ∧ y < p.height := by
  simp [onScreen, and_assoc]

/-- A plot writes one byte or does nothing (R110). -/
theorem plot_cases (x y : Int) (c : Bool) (s : State) :
    (onScreen s.params x y = true
      ∧ plot x y c s = setFbByte (pixelIndex s.params x y)
          (withBit c (pixelBit y) (fbByte s (pixelIndex s.params x y))) s)
      ∨ (onScreen s.params x y = false ∧ plot x y c s = s) := by
  unfold plot
  cases onScreen s.params x y <;> simp

theorem plot_clipped {x y : Int} (c : Bool) {s : State} (h : onScreen s.params x y = false) : plot x y c s = s := by
  simp [plot, h]

theorem pixelBit_lt (y : Int) : pixelBit y < 8 := Nat.mod_lt _ (by decide)

/-- A byte with one bit written: that bit reads the colour and every other bit reads as before. -/
theorem getLsbD_withBit (c : Bool) (bit j : Nat) (b : Byte) (hj : j < 8) :
    (withBit c bit b).getLsbD j = if j = bit then c else b.getLsbD j := by
  unfold withBit
  cases c <;>
    simp only [Bool.false_eq_true, if_true, if_false, BitVec.getLsbD_or, BitVec.getLsbD_and, BitVec.getLsbD_not,
      BitVec.getLsbD_shiftLeft, BitVec.getLsbD_one, hj, decide_true, Bool.true_and]
  · by_cases h : j = bit
    · subst h; simp
    · rcases Nat.lt_or_ge j bit with hlt | hge
      · simp [h, hlt]
      · have : j - bit ≠ 0 := by omega
        simp [h, this]
  · by_cases h : j = bit
    · subst h; simp
    · rcases Nat.lt_or_ge j bit with hlt | hge
      · simp [h, hlt]
      · have : j - bit ≠ 0 := by omega
        simp [h, this]

/-- Two pixels on screen with one byte and one bit are one pixel (10_state R21). -/
theorem pixel_inj {p : Params} {x y a b : Int} (h : onScreen p x y = true) (h' : onScreen p a b = true)
    (hi : pixelIndex p x y = pixelIndex p a b) (hb : pixelBit y = pixelBit b) : x = a ∧ y = b := by
  rw [onScreen_iff] at h h'
  obtain ⟨hx0, hxw, hy0, -⟩ := h
  obtain ⟨ha0, haw, hb0, -⟩ := h'
  simp only [pixelIndex, pixelBit] at hi hb
  have hw : 0 < p.width := by omega
  have h1 : x.toNat < p.width := by omega
  have h2 : a.toNat < p.width := by omega
  have hx : x.toNat = a.toNat := by
    have := congrArg (· % p.width) hi
    simpa [Nat.add_mul_mod_self_right, Nat.mod_eq_of_lt h1, Nat.mod_eq_of_lt h2] using this
  have hq : y.toNat / 8 = b.toNat / 8 := by
    have := congrArg (· / p.width) hi
    simpa [Nat.add_mul_div_right _ _ hw, Nat.div_eq_of_lt h1, Nat.div_eq_of_lt h2] using this
  omega

/-- A pixel on screen lies in a byte of the framebuffer. -/
theorem pixelIndex_lt {p : Params} {x y : Int} (hp : p.height % 8 = 0) (h : onScreen p x y = true) :
    pixelIndex p x y < p.fbBytes := by
  rw [onScreen_iff] at h
  obtain ⟨hx0, hxw, hy0, hyh⟩ := h
  have h1 : x.toNat < p.width := by omega
  have h2 : y.toNat / 8 < p.pages := by simp only [Params.pages]; omega
  have : (y.toNat / 8 + 1) * p.width ≤ p.pages * p.width := Nat.mul_le_mul_right _ h2
  simp only [pixelIndex, Params.fbBytes, Nat.mul_comm p.width]
  rw [Nat.add_mul] at this
  omega

theorem fbByte_plot (x y : Int) (c : Bool) (s : State) (i : Nat) :
    fbByte (plot x y c s) i
      = if onScreen s.params x y = true ∧ pixelIndex s.params x y = i then withBit c (pixelBit y) (fbByte s i)
        else fbByte s i := by
  rcases plot_cases x y c s with ⟨h, e⟩ | ⟨h, e⟩
  · rw [e, fbByte_setFbByte]
    by_cases hi : i = pixelIndex s.params x y
    · subst hi; simp [h]
    · simp [h, hi, Ne.symm hi]
  · simp [e, h]

/-- What a pixel on screen reads after a plot (R110, R115). -/
theorem pixelOn_plot {x y : Int} (a b : Int) (c : Bool) (s : State) (h : onScreen s.params x y = true) :
    pixelOn (plot a b c s) x y = if a = x ∧ b = y then c else pixelOn s x y := by
  simp only [pixelOn, plot_params, fbByte_plot]
  by_cases hab : a = x ∧ b = y
  · obtain ⟨rfl, rfl⟩ := hab
    simp [h, getLsbD_withBit _ _ _ _ (pixelBit_lt b)]
  · simp only [hab, if_false]
    split
    · next hs =>
      rw [getLsbD_withBit _ _ _ _ (pixelBit_lt y)]
      split
      · next hb =>
        have := pixel_inj h hs.1 hs.2.symm hb
        exact absurd ⟨this.1.symm, this.2.symm⟩ hab
      · rfl
    · rfl

theorem plot_text_bytes (x y : Int) (c : Bool) (s : State) (j : Nat) : textByte (plot x y c s) j = textByte s j := by
  simp [textByte]

/-! The transaction port. -/

/-- Recording an answer changes the last entry and no other. -/
@[simp] theorem recordAnswer_append (r : Answer) (log : List Transaction) (t : Transaction) :
    recordAnswer r (log ++ [t]) = log ++ [{ t with answer := some r }] := by
  induction log with
  | nil => rfl
  | cons u log ih =>
    cases log with
    | nil => rfl
    | cons v log => simpa [recordAnswer] using ih

/-! The memories stay in canonical form. -/

theorem setFbByte_fb_wf (i : Nat) (v : Byte) {s : State} (h : s.fb.wf = true) : (setFbByte i v s).fb.wf = true :=
  Memory.wf_write i v h

theorem setTextByte_text_wf (j : Nat) (v : Byte) {s : State} (h : s.text.wf = true) :
    (setTextByte j v s).text.wf = true :=
  Memory.wf_write j v h

theorem plot_fb_wf (x y : Int) (c : Bool) {s : State} (h : s.fb.wf = true) : (plot x y c s).fb.wf = true := by
  rcases plot_cases x y c s with ⟨-, e⟩ | ⟨-, e⟩
  · rw [e]; exact setFbByte_fb_wf _ _ h
  · rw [e]; exact h

theorem writeTextWord_text_wf (k : Nat) (v : Word) {s : State} (h : s.text.wf = true) :
    (writeTextWord k v s).text.wf = true := by
  unfold writeTextWord
  exact setTextByte_text_wf _ _ (setTextByte_text_wf _ _ (setTextByte_text_wf _ _ (setTextByte_text_wf _ _ h)))

/-- At reset both memories are empty, and so in canonical form. -/
theorem reset_memories_wf : State.reset.fb.wf = true ∧ State.reset.text.wf = true := ⟨rfl, rfl⟩

end Sys2Proof.Machine
end

