-- ==== Sys2Proof/Laws/Engine.lean ====
section
/-! SUPPORT. The engine and the Bus Transport: what one of their moves leaves unchanged, and the cases of each. -/
namespace Sys2Proof.Machine

/-! A step of the engine leaves every field but FB, STATE, BUSY, RESULT, its own progress and the bus log. -/

/-- A plot and its frame: a step function over `plot` changes only FB. -/
theorem plot_eq_setFb (x y : Int) (c : Bool) (s : State) : ∃ fb, plot x y c s = { s with fb := fb } := by
  rcases plot_cases x y c s with ⟨-, e⟩ | ⟨-, e⟩
  · exact ⟨_, e⟩
  · exact ⟨s.fb, e⟩

/-- A step of the engine changes at most FB, STATE, BUSY, RESULT, the engine's progress and the bus log. -/
theorem engineStep_frame (s : State) :
    ∃ fb ctl busy result engine busLog,
      engineStep s
        = { s with fb := fb, ctl := ctl, busy := busy, result := result, engine := engine, busLog := busLog } := by
  unfold engineStep
  split
  · exact ⟨_, _, _, _, _, _, rfl⟩
  · unfold fillStep; split <;> exact ⟨_, _, _, _, _, _, rfl⟩
  · obtain ⟨fb, h⟩ := plot_eq_setFb (coordInt s.latch.lx0) (coordInt s.latch.ly0) s.latch.lcolor s
    rw [pixelStep, h]; exact ⟨_, _, _, _, _, _, rfl⟩
  · exact ⟨_, _, _, _, _, _, rfl⟩
  · next r _ =>
    obtain ⟨fb, h⟩ := plot_eq_setFb r.x r.y s.latch.lcolor s
    rw [lineStep, h]; exact ⟨_, _, _, _, _, _, rfl⟩
  · exact ⟨_, _, _, _, _, _, rfl⟩
  · next k cx col row _ =>
    unfold textStep
    obtain ⟨fb, h⟩ := plot_eq_setFb (cx + col) (coordInt s.latch.ly0 + row) true s
    rw [h]
    split
    · split
      · exact ⟨_, _, _, _, _, _, rfl⟩
      · split <;> exact ⟨_, _, _, _, _, _, rfl⟩
    · exact ⟨_, _, _, _, _, _, rfl⟩
  · unfold initClearStep initSendStep
    split
    · exact ⟨_, _, _, _, _, _, rfl⟩
    · split <;> exact ⟨_, _, _, _, _, _, rfl⟩
  · unfold initSendStep; split <;> exact ⟨_, _, _, _, _, _, rfl⟩
  · exact ⟨_, _, _, _, _, _, rfl⟩
  · exact ⟨_, _, _, _, _, _, rfl⟩
  · unfold flushSendStep; split <;> exact ⟨_, _, _, _, _, _, rfl⟩
  · exact ⟨_, _, _, _, _, _, rfl⟩
  · exact ⟨_, _, _, _, _, _, rfl⟩

@[simp] theorem engineStep_params (s : State) : (engineStep s).params = s.params := by
  obtain ⟨_, _, _, _, _, _, h⟩ := engineStep_frame s; rw [h]

@[simp] theorem engineStep_drop (s : State) : (engineStep s).drop = s.drop := by
  obtain ⟨_, _, _, _, _, _, h⟩ := engineStep_frame s; rw [h]

@[simp] theorem engineStep_x0 (s : State) : (engineStep s).x0 = s.x0 := by
  obtain ⟨_, _, _, _, _, _, h⟩ := engineStep_frame s; rw [h]

@[simp] theorem engineStep_y0 (s : State) : (engineStep s).y0 = s.y0 := by
  obtain ⟨_, _, _, _, _, _, h⟩ := engineStep_frame s; rw [h]

@[simp] theorem engineStep_x1 (s : State) : (engineStep s).x1 = s.x1 := by
  obtain ⟨_, _, _, _, _, _, h⟩ := engineStep_frame s; rw [h]

@[simp] theorem engineStep_y1 (s : State) : (engineStep s).y1 = s.y1 := by
  obtain ⟨_, _, _, _, _, _, h⟩ := engineStep_frame s; rw [h]

@[simp] theorem engineStep_textLen (s : State) : (engineStep s).textLen = s.textLen := by
  obtain ⟨_, _, _, _, _, _, h⟩ := engineStep_frame s; rw [h]

@[simp] theorem engineStep_text (s : State) : (engineStep s).text = s.text := by
  obtain ⟨_, _, _, _, _, _, h⟩ := engineStep_frame s; rw [h]

@[simp] theorem engineStep_devAddr (s : State) : (engineStep s).devAddr = s.devAddr := by
  obtain ⟨_, _, _, _, _, _, h⟩ := engineStep_frame s; rw [h]

@[simp] theorem engineStep_hostReads (s : State) : (engineStep s).hostReads = s.hostReads := by
  obtain ⟨_, _, _, _, _, _, h⟩ := engineStep_frame s; rw [h]

@[simp] theorem engineStep_host (s : State) : (engineStep s).host = s.host := by
  obtain ⟨_, _, _, _, _, _, h⟩ := engineStep_frame s; rw [h]

@[simp] theorem engineStep_sched (s : State) : (engineStep s).sched = s.sched := by
  obtain ⟨_, _, _, _, _, _, h⟩ := engineStep_frame s; rw [h]

@[simp] theorem engineStep_epoch (s : State) : (engineStep s).epoch = s.epoch := by
  obtain ⟨_, _, _, _, _, _, h⟩ := engineStep_frame s; rw [h]

@[simp] theorem engineStep_latch (s : State) : (engineStep s).latch = s.latch := by
  obtain ⟨_, _, _, _, _, _, h⟩ := engineStep_frame s; rw [h]

@[simp] theorem engineStep_answers (s : State) : (engineStep s).answers = s.answers := by
  obtain ⟨_, _, _, _, _, _, h⟩ := engineStep_frame s; rw [h]

/-- The Bus Transport's move: it answers the outstanding transaction, or there is nothing for it to do. -/
theorem busStep_cases (s : State) :
    (∃ r rest, waiting s = true ∧ s.answers = r :: rest
        ∧ busStep s = { s with answers := rest, busLog := recordAnswer r s.busLog, engine := afterAnswer r s.engine })
      ∨ ((waiting s = false ∨ s.answers = []) ∧ busStep s = s) := by
  unfold busStep
  cases hw : waiting s with
  | false => exact .inr ⟨.inl rfl, by simp⟩
  | true =>
    cases ha : s.answers with
    | nil => exact .inr ⟨.inr rfl, by simp⟩
    | cons r rest => exact .inl ⟨r, rest, rfl, rfl, by simp⟩

@[simp] theorem busStep_params (s : State) : (busStep s).params = s.params := by
  rcases busStep_cases s with ⟨_, _, -, -, h⟩ | ⟨-, h⟩ <;> rw [h]

@[simp] theorem busStep_drop (s : State) : (busStep s).drop = s.drop := by
  rcases busStep_cases s with ⟨_, _, -, -, h⟩ | ⟨-, h⟩ <;> rw [h]

@[simp] theorem busStep_x0 (s : State) : (busStep s).x0 = s.x0 := by
  rcases busStep_cases s with ⟨_, _, -, -, h⟩ | ⟨-, h⟩ <;> rw [h]

@[simp] theorem busStep_y0 (s : State) : (busStep s).y0 = s.y0 := by
  rcases busStep_cases s with ⟨_, _, -, -, h⟩ | ⟨-, h⟩ <;> rw [h]

@[simp] theorem busStep_x1 (s : State) : (busStep s).x1 = s.x1 := by
  rcases busStep_cases s with ⟨_, _, -, -, h⟩ | ⟨-, h⟩ <;> rw [h]

@[simp] theorem busStep_y1 (s : State) : (busStep s).y1 = s.y1 := by
  rcases busStep_cases s with ⟨_, _, -, -, h⟩ | ⟨-, h⟩ <;> rw [h]

@[simp] theorem busStep_textLen (s : State) : (busStep s).textLen = s.textLen := by
  rcases busStep_cases s with ⟨_, _, -, -, h⟩ | ⟨-, h⟩ <;> rw [h]

@[simp] theorem busStep_text (s : State) : (busStep s).text = s.text := by
  rcases busStep_cases s with ⟨_, _, -, -, h⟩ | ⟨-, h⟩ <;> rw [h]

@[simp] theorem busStep_devAddr (s : State) : (busStep s).devAddr = s.devAddr := by
  rcases busStep_cases s with ⟨_, _, -, -, h⟩ | ⟨-, h⟩ <;> rw [h]

@[simp] theorem busStep_hostReads (s : State) : (busStep s).hostReads = s.hostReads := by
  rcases busStep_cases s with ⟨_, _, -, -, h⟩ | ⟨-, h⟩ <;> rw [h]

@[simp] theorem busStep_host (s : State) : (busStep s).host = s.host := by
  rcases busStep_cases s with ⟨_, _, -, -, h⟩ | ⟨-, h⟩ <;> rw [h]

@[simp] theorem busStep_sched (s : State) : (busStep s).sched = s.sched := by
  rcases busStep_cases s with ⟨_, _, -, -, h⟩ | ⟨-, h⟩ <;> rw [h]

@[simp] theorem busStep_epoch (s : State) : (busStep s).epoch = s.epoch := by
  rcases busStep_cases s with ⟨_, _, -, -, h⟩ | ⟨-, h⟩ <;> rw [h]

@[simp] theorem busStep_fb (s : State) : (busStep s).fb = s.fb := by
  rcases busStep_cases s with ⟨_, _, -, -, h⟩ | ⟨-, h⟩ <;> rw [h]

@[simp] theorem busStep_ctl (s : State) : (busStep s).ctl = s.ctl := by
  rcases busStep_cases s with ⟨_, _, -, -, h⟩ | ⟨-, h⟩ <;> rw [h]

@[simp] theorem busStep_busy (s : State) : (busStep s).busy = s.busy := by
  rcases busStep_cases s with ⟨_, _, -, -, h⟩ | ⟨-, h⟩ <;> rw [h]

@[simp] theorem busStep_result (s : State) : (busStep s).result = s.result := by
  rcases busStep_cases s with ⟨_, _, -, -, h⟩ | ⟨-, h⟩ <;> rw [h]

@[simp] theorem busStep_latch (s : State) : (busStep s).latch = s.latch := by
  rcases busStep_cases s with ⟨_, _, -, -, h⟩ | ⟨-, h⟩ <;> rw [h]

/-- An engine that waits for an answer makes no step (70_reset R243). -/
theorem engineStep_waiting {s : State} (h : waiting s = true) : engineStep s = s := by
  unfold waiting at h
  split at h <;> simp_all [engineStep]

theorem engineStep_idle {s : State} (h : s.engine = .idle) : engineStep s = s := by simp [engineStep, h]

theorem advance_waiting {s : State} (h : waiting s = true) : advance s = busStep s := by simp [advance, h]

theorem advance_running {s : State} (h : waiting s = false) : advance s = engineStep s := by simp [advance, h]

@[simp] theorem advanceN_zero (s : State) : advanceN 0 s = s := rfl

theorem advanceN_succ (n : Nat) (s : State) : advanceN (n + 1) s = advanceN n (advance s) := rfl

theorem advanceN_add (m n : Nat) (s : State) : advanceN (m + n) s = advanceN n (advanceN m s) := by
  induction m generalizing s with
  | zero => simp
  | succ m ih => rw [Nat.add_right_comm, advanceN_succ, ih, advanceN_succ]

@[simp] theorem advance_params (s : State) : (advance s).params = s.params := by
  unfold advance; split <;> simp

@[simp] theorem advance_drop (s : State) : (advance s).drop = s.drop := by
  unfold advance; split <;> simp

@[simp] theorem advance_x0 (s : State) : (advance s).x0 = s.x0 := by
  unfold advance; split <;> simp

@[simp] theorem advance_y0 (s : State) : (advance s).y0 = s.y0 := by
  unfold advance; split <;> simp

@[simp] theorem advance_x1 (s : State) : (advance s).x1 = s.x1 := by
  unfold advance; split <;> simp

@[simp] theorem advance_y1 (s : State) : (advance s).y1 = s.y1 := by
  unfold advance; split <;> simp

@[simp] theorem advance_textLen (s : State) : (advance s).textLen = s.textLen := by
  unfold advance; split <;> simp

@[simp] theorem advance_text (s : State) : (advance s).text = s.text := by
  unfold advance; split <;> simp

@[simp] theorem advance_devAddr (s : State) : (advance s).devAddr = s.devAddr := by
  unfold advance; split <;> simp

@[simp] theorem advance_hostReads (s : State) : (advance s).hostReads = s.hostReads := by
  unfold advance; split <;> simp

@[simp] theorem advance_host (s : State) : (advance s).host = s.host := by
  unfold advance; split <;> simp

@[simp] theorem advance_sched (s : State) : (advance s).sched = s.sched := by
  unfold advance; split <;> simp

@[simp] theorem advance_epoch (s : State) : (advance s).epoch = s.epoch := by
  unfold advance; split <;> simp

@[simp] theorem advance_latch (s : State) : (advance s).latch = s.latch := by
  unfold advance; split <;> simp

end Sys2Proof.Machine
end

