-- ==== Sys2Proof/Laws/Window.lean ====
section
/-! SUPPORT. The window: where the map puts each register, the byte lanes of a word, and what a write can do. -/
namespace Sys2Proof.Machine

/-- A lane of a word is the byte it was made of (20_memory R55). -/
theorem lane_wordOfLanes (f : Nat → Byte) {i : Nat} (hi : i < 4) : (wordOfLanes f).extractLsb' (8 * i) 8 = f i := by
  have : i = 0 ∨ i = 1 ∨ i = 2 ∨ i = 3 := by omega
  apply BitVec.eq_of_getLsbD_eq
  intro j hj
  rcases this with rfl | rfl | rfl | rfl <;> simp [wordOfLanes, wordOfBytes, hj] <;> grind

/-- A word is the word of its bytes (20_memory R55). -/
theorem wordOfLanes_byteOfWord (v : Word) : wordOfLanes (byteOfWord v) = v := by
  apply BitVec.eq_of_getLsbD_eq
  intro j hj
  simp [wordOfLanes, wordOfBytes, byteOfWord]
  grind

/-- The map gives each named register back at its offset (R51). -/
theorem regAt_offsetOf (n : RegName) : regAt (offsetOf n).toNat = some n := by
  cases n with
  | text k =>
    have hk := k.isLt
    have h1 : (BitVec.ofNat 13 (0x0100 + 4 * k.val)).toNat = 0x0100 + 4 * k.val := by simp; omega
    simp only [offsetOf, h1]
    unfold regAt
    rw [dif_pos (show 0x0100 ≤ 0x0100 + 4 * k.val ∧ 0x0100 + 4 * k.val < 0x0200 by omega)]
    repeat rw [if_neg (by omega)]
    simp
  | fb k =>
    have hk := k.isLt
    have h1 : (BitVec.ofNat 13 (0x1000 + 4 * k.val)).toNat = 0x1000 + 4 * k.val := by simp; omega
    simp only [offsetOf, h1]
    unfold regAt
    rw [dif_neg (show ¬(0x0100 ≤ 0x1000 + 4 * k.val ∧ 0x1000 + 4 * k.val < 0x0200) by omega),
      dif_pos (show 0x1000 ≤ 0x1000 + 4 * k.val ∧ 0x1000 + 4 * k.val < 0x1400 by omega)]
    repeat rw [if_neg (by omega)]
    simp
  | _ => rfl

/-- Each named register's offset is a multiple of 4. -/
theorem offsetOf_aligned (n : RegName) : (offsetOf n).toNat % 4 = 0 := by
  cases n with
  | text k => have := k.isLt; simp only [offsetOf, BitVec.toNat_ofNat]; omega
  | fb k => have := k.isLt; simp only [offsetOf, BitVec.toNat_ofNat]; omega
  | _ => decide

/-- CMD and STATUS lie at one offset each. -/
theorem regAt_cmd {o : Offset} (h : regAt o.toNat = some .cmd) : o = 0x0000#13 := by
  have : o.toNat = 0 := by
    unfold regAt at h
    split at h
    · assumption
    · repeat' split at h
      all_goals simp at h
  exact BitVec.eq_of_toNat_eq (by simpa using this)

theorem regAt_status {o : Offset} (h : regAt o.toNat = some .status) : o = 0x0004#13 := by
  have : o.toNat = 4 := by
    unfold regAt at h
    split at h
    · simp at h
    · split at h
      · assumption
      · repeat' split at h
        all_goals simp at h
  exact BitVec.eq_of_toNat_eq (by simpa using this)

/-- What a word write can do: it is a command, clears DROP, is dropped, or stores. -/
theorem wordWrite_cases (o : Offset) (v : Word) (s : State) :
    (o = 0x0000#13 ∧ wordWrite o v s = commandWrite v s)
      ∨ (o = 0x0004#13 ∧ wordWrite o v s = .next (statusWrite v s))
      ∨ (s.busy = true ∧ wordWrite o v s = .next (dropWrite s))
      ∨ (s.busy = false ∧ wordWrite o v s = .next (storeReg (regAt o.toNat) v s)) := by
  unfold wordWrite
  split
  · next h => exact .inl ⟨regAt_cmd h, rfl⟩
  · next h => exact .inr (.inl ⟨regAt_status h, rfl⟩)
  · cases hb : s.busy <;> simp

/-- A store changes at most the operand registers, TEXT and DEV_ADDR. -/
theorem storeReg_frame (n : Option RegName) (v : Word) (s : State) :
    ∃ x0 y0 x1 y1 textLen text devAddr,
      storeReg n v s
        = { s with x0 := x0, y0 := y0, x1 := x1, y1 := y1, textLen := textLen, text := text, devAddr := devAddr } := by
  unfold storeReg
  split
  all_goals first
    | exact ⟨_, _, _, _, _, _, _, rfl⟩
    | (split <;> exact ⟨_, _, _, _, _, _, _, rfl⟩)

/-- A command write, busy or not, always answers a next state (60_exceptions R210). -/
theorem commandWrite_next (w : Word) (s : State) : ∃ t, commandWrite w s = .next t := by
  unfold commandWrite
  split
  · next i _ => cases i <;> exact ⟨_, rfl⟩
  · exact ⟨_, rfl⟩

/-- The outcomes of a command write (30_encoding R95): dropped, rejected, or accepted. -/
theorem commandWrite_cases {w : Word} {s t : State} (h : commandWrite w s = .next t) :
    (s.busy = true ∧ t = dropWrite s)
      ∨ (s.busy = false ∧ ∃ code, t = reject code s)
      ∨ (s.busy = false ∧ s.ctl = .ready ∧ ∃ c e, t = accept c e s
          ∧ (e = .fill 0 ∨ e = .pixel
              ∨ e = .line (lineStart (coordInt s.x0) (coordInt s.y0) (coordInt s.x1) (coordInt s.y1))
              ∨ e = .text 0 (coordInt s.x0) 0 0 ∨ e = .flushSend 0 0))
      ∨ (s.busy = false ∧ (s.ctl = .uninit ∨ s.ctl = .failed)
          ∧ ∃ c, t = { accept c (.initClear 0) s with ctl := .initializing }) := by
  have drawing : ∀ (c : Bool) (e : Engine), t = issue acceptsDrawing (accept c e) s →
      (s.busy = true ∧ t = dropWrite s) ∨ (s.busy = false ∧ t = reject .badState s)
        ∨ (s.busy = false ∧ s.ctl = .ready ∧ t = accept c e s) := by
    intro c e ht
    rcases issue_cases acceptsDrawing (accept c e) s with ⟨hb, h⟩ | ⟨hb, ho, h⟩ | ⟨hb, -, h⟩
    · exact .inl ⟨hb, ht.trans h⟩
    · exact .inr (.inr ⟨hb, by simpa using ho, ht.trans h⟩)
    · exact .inr (.inl ⟨hb, ht.trans h⟩)
  unfold commandWrite at h
  split at h
  · next i _ =>
    cases i <;>
      simp only [exec, execInit, execFill, execSetPixel, execDrawLine, execDrawText, execFlush,
        Host.Outcome.next.injEq] at h
    case init c _ =>
      rcases issue_cases acceptsInit (fun s => { accept c (.initClear 0) s with ctl := .initializing }) s with
        ⟨hb, e⟩ | ⟨hb, ho, e⟩ | ⟨hb, -, e⟩
      · exact .inl ⟨hb, h.symm.trans e⟩
      · exact .inr (.inr (.inr ⟨hb, by simpa using ho, c, h.symm.trans e⟩))
      · exact .inr (.inl ⟨hb, _, h.symm.trans e⟩)
    all_goals
      rcases drawing _ _ h.symm with h | h | h
      · exact .inl h
      · exact .inr (.inl ⟨h.1, _, h.2⟩)
      · exact .inr (.inr (.inl ⟨h.1, h.2.1, _, _, h.2.2, by simp⟩))
  · simp only [Host.Outcome.next.injEq] at h
    cases hb : s.busy
    · exact .inr (.inl ⟨rfl, .illegalCommand, by simpa [hb] using h.symm⟩)
    · exact .inl ⟨rfl, by simpa [hb] using h.symm⟩

end Sys2Proof.Machine
end

