-- ==== Sys2Proof/Laws/Agents.lean ====
section
/-! SUPPORT. The agents' moves: what a line of the host's program can do, and what one step can be. -/
namespace Sys2Proof.Machine

/-- A line that writes an aligned word is that word write. -/
theorem runLine_write {line : HostLine} {o : Offset} {v : Word} (s : State) (h : lineWrite line = some (o, v)) :
    runLine line s = wordWrite o v s := by
  cases line with
  | wr n w => simp only [lineWrite, Option.some.injEq, Prod.mk.injEq] at h; obtain ⟨rfl, rfl⟩ := h; rfl
  | access a =>
    cases a with
    | read => simp [lineWrite] at h
    | write size o' w =>
      cases size <;> simp [lineWrite] at h
      obtain ⟨ho, rfl, rfl⟩ := h
      simp [runLine, hostAccess, acts, ho]
  | _ => simp [lineWrite] at h

/-- Any other line changes only the host and its record of reads. -/
theorem runLine_other {line : HostLine} {s t : State} (h : lineWrite line = none) (ht : runLine line s = .next t) :
    ∃ reads host, t = { s with hostReads := reads, host := host } := by
  have jump : ∀ l, jumpTo l s = .next t → ∃ reads host, t = { s with hostReads := reads, host := host } := by
    intro l hl
    unfold jumpTo at hl
    split at hl
    · simp only [Host.Outcome.next.injEq] at hl; exact ⟨_, _, hl.symm⟩
    · simp at hl
  cases line with
  | label l => simp only [runLine, Host.Outcome.next.injEq] at ht; exact ⟨s.hostReads, s.host, ht.symm⟩
  | wr n v => simp [lineWrite] at h
  | rd n k => simp only [runLine, readInto, Host.Outcome.next.injEq] at ht; exact ⟨_, _, ht.symm⟩
  | bit1 k n l =>
    simp only [runLine] at ht
    split at ht
    · exact jump l ht
    · simp only [Host.Outcome.next.injEq] at ht; exact ⟨s.hostReads, s.host, ht.symm⟩
  | jmp l => exact jump l ht
  | access a =>
    cases a with
    | read size o => simp only [runLine, hostAccess, Host.Outcome.next.injEq] at ht; exact ⟨_, s.host, ht.symm⟩
    | write size o v =>
      have hn : acts size o = false := by
        cases size <;> simp [lineWrite, acts] at h ⊢
        exact h
      simp only [runLine, hostAccess, hn, Bool.false_eq_true, if_false, Host.Outcome.next.injEq] at ht
      exact ⟨s.hostReads, s.host, ht.symm⟩

/-- A move of the host is a word write made with the host at its next line, or changes only the host and its record. -/
theorem hostStep_cases {s t : State} (h : hostStep s = .next t) :
    (∃ line o v, nextLine s = some line ∧ lineWrite line = some (o, v) ∧ wordWrite o v (advanceHost s) = .next t)
      ∨ ∃ reads host, t = { s with hostReads := reads, host := host } := by
  unfold hostStep at h
  split at h
  · next line hl =>
    cases hw : lineWrite line with
    | some p => exact .inl ⟨line, p.1, p.2, hl, hw, (runLine_write _ hw).symm.trans h⟩
    | none =>
      obtain ⟨reads, host, e⟩ := runLine_other hw h
      exact .inr ⟨reads, host, e⟩
  · simp only [Host.Outcome.next.injEq] at h; exact .inr ⟨s.hostReads, s.host, h.symm⟩

/-- Taking a turn off the schedule changes nothing else. -/
theorem nextTurn_frame (s : State) : ∃ sched, (nextTurn s).2 = { s with sched := sched } := by
  unfold nextTurn
  split
  · exact ⟨_, rfl⟩
  · exact ⟨s.sched, rfl⟩

/-- One step is one agent's move. -/
theorem step_cases {s t : State} (h : step s = .next t) :
    ∃ sched, (nextTurn s).2 = { s with sched := sched } ∧
      (((nextTurn s).1 = .host ∧ hostStep { s with sched := sched } = .next t)
        ∨ ((nextTurn s).1 = .engine ∧ t = engineStep { s with sched := sched })
        ∨ ((nextTurn s).1 = .bus ∧ t = busStep { s with sched := sched })
        ∨ ((nextTurn s).1 = .reset ∧ t = resetBlock { s with sched := sched })) := by
  obtain ⟨sched, hs⟩ := nextTurn_frame s
  refine ⟨sched, hs, ?_⟩
  rw [step, hs] at h
  cases ht : (nextTurn s).1 <;> rw [ht] at h <;> simp only [move, Host.Outcome.next.injEq] at h
  · exact .inl ⟨rfl, h⟩
  · exact .inr (.inl ⟨rfl, h.symm⟩)
  · exact .inr (.inr (.inl ⟨rfl, h.symm⟩))
  · exact .inr (.inr (.inr ⟨rfl, h.symm⟩))

end Sys2Proof.Machine
end

