-- ==== Sys2Proof/Laws/PerInstr.lean ====
section
/-! SUPPORT. Statements about every command as syntax, one lemma a constructor. -/
namespace Sys2Proof.Laws

/-- The word of a command: its reserved field is 0, its opcode field is legal, the word is one of the opcode table, and
the byte-level decoder reads the command back from the table's numbering of it (30_encoding R81, R83, R86). -/
def WordShape.Statement (i : Instr) : Prop :=
  i.wf = true ∧ rsvField (encode i) = 0#27 ∧ 1 ≤ (opField (encode i)).toNat ∧ (opField (encode i)).toNat ≤ 6
    ∧ decodeTableWord 32 (encode i).toNat = some i

theorem WordShape.init (c : Bool) : WordShape.Statement (.init c) := by
  cases c <;> exact ⟨rfl, rfl, by decide, by decide, rfl⟩

theorem WordShape.fill (c : Bool) : WordShape.Statement (.fill c) := by
  cases c <;> exact ⟨rfl, rfl, by decide, by decide, rfl⟩

theorem WordShape.setPixel (c : Bool) : WordShape.Statement (.setPixel c) := by
  cases c <;> exact ⟨rfl, rfl, by decide, by decide, rfl⟩

theorem WordShape.drawLine (c : Bool) : WordShape.Statement (.drawLine c) := by
  cases c <;> exact ⟨rfl, rfl, by decide, by decide, rfl⟩

theorem WordShape.drawText (c : Bool) : WordShape.Statement (.drawText c) := by
  cases c <;> exact ⟨rfl, rfl, by decide, by decide, rfl⟩

theorem WordShape.flush (c : Bool) : WordShape.Statement (.flush c) := by
  cases c <;> exact ⟨rfl, rfl, by decide, by decide, rfl⟩

end Sys2Proof.Laws
end

