-- ==== Sys2Proof/Laws/Runs.lean ====
section
/-! SUPPORT. Runs of a command: its plots as one list, the line's registers by their moves, the glyph loop and FLUSH's
transactions counted through, and the view of the block that the host's moves leave. -/
namespace Sys2Proof.Machine

/-! A command's plots, one after another. -/

/-- The plots of a list of points, in order. -/
def plotAll (c : Bool) : List (Int × Int) → State → State
  | [], s => s
  | q :: l, s => plotAll c l (plot q.1 q.2 c s)

/-- Plots change only FB. -/
theorem plotAll_frame (c l) (s : State) : ∃ fb, plotAll c l s = {s with fb := fb} := by
  induction l generalizing s with
  | nil => exact ⟨s.fb, rfl⟩
  | cons q l ih =>
    obtain ⟨fb, e⟩ := plot_eq_setFb q.1 q.2 c s
    obtain ⟨fb', e'⟩ := ih (plot q.1 q.2 c s)
    exact ⟨fb', by rw [plotAll, e', e]⟩

/-- Plots of two lists are one after the other. -/
theorem plotAll_append (c l l') (s : State) : plotAll c (l ++ l') s = plotAll c l' (plotAll c l s) := by
  induction l generalizing s with
  | nil => rfl
  | cons q l ih => exact ih _

/-- After plots, a pixel on screen has their colour where it is one of the points, and its old value elsewhere. -/
theorem plotAll_pixel (c l) (s : State) {x y} (h : onScreen s.params x y = true) :
   pixelOn (plotAll c l s) x y = if (x, y) ∈ l then c else pixelOn s x y := by
  induction l generalizing s with
  | nil => simp [plotAll]
  | cons q l ih =>
    rw [plotAll, ih _ (by simpa using h), pixelOn_plot _ _ _ _ h]
    obtain ⟨a, b⟩ := q
    simp only [List.mem_cons, Prod.mk.injEq]
    grind

/-- Plots leave every byte that holds none of the points. -/
theorem plotAll_byte (c l) (s : State) {i} (h : ¬ touches s.params l i) : fbByte (plotAll c l s) i = fbByte s i := by
  induction l generalizing s with
  | nil => rfl
  | cons q l ih =>
    have h1 : ¬ touches s.params l i := fun ⟨q, hq, hh⟩ => h ⟨q, List.mem_cons_of_mem _ hq, hh⟩
    rw [plotAll, ih _ (by simpa using h1), fbByte_plot, if_neg]
    intro hh
    exact h ⟨q, by simp, hh⟩

/-- A plot does not read the progress of the engine. -/
theorem plot_with_engine (x y c) (s : State) (e : Engine) :
    plot x y c {s with engine := e} = {plot x y c s with engine := e} := by
  unfold plot; simp only []; split <;> rfl

/-- Plots do not read the progress of the engine. -/
theorem plotAll_with_engine (c l) (s : State) (e : Engine) :
    plotAll c l {s with engine := e} = {plotAll c l s with engine := e} := by
  induction l generalizing s with
  | nil => rfl
  | cons q l ih => rw [plotAll, plot_with_engine, ih]; rfl

/-- The same, for a state given by an equation. -/
theorem plotAll_of_eq (c l) (s : State) (e : Engine) (u : State) (h : u = {s with engine := e}) :
    plotAll c l u = {plotAll c l s with engine := e} := by
  rw [h]; exact plotAll_with_engine c l s e

/-- Plots leave the latches. -/
theorem plotAll_latch (c l) (s : State) : (plotAll c l s).latch = s.latch := by
  obtain ⟨fb, h⟩ := plotAll_frame c l s; rw [h]

/-- Plots leave the parameters. -/
theorem plotAll_params (c l) (s : State) : (plotAll c l s).params = s.params := by
  obtain ⟨fb, h⟩ := plotAll_frame c l s; rw [h]

/-- Plots leave TEXT. -/
theorem plotAll_textByte (c l) (s : State) (k) : textByte (plotAll c l s) k = textByte s k := by
  obtain ⟨fb, h⟩ := plotAll_frame c l s; rw [h]; rfl

/-! The line: the registers after `i` x-moves and `j` y-moves. -/

/-- An integer from its size and sign. -/
theorem natAbs_mul_sign_eq (z : Int) : (z.natAbs : Int) * z.sign = z := by
  rw [mul_comm]; exact Int.sign_mul_natAbs z

/-- The registers stand after `i` x-moves and `j` y-moves of the line between two points (41_line R136). -/
def lineAt (x0 y0 x1 y1 : Int) (i j : Nat) (r : LineRegs) : Prop :=
   i ≤ (x1 - x0).natAbs ∧ j ≤ (y1 - y0).natAbs
    ∧ r.dx = (x1 - x0).natAbs ∧ r.dy = (y1 - y0).natAbs
    ∧ r.sx = (x1 - x0).sign ∧ r.sy = (y1 - y0).sign
    ∧ r.x = x0 + i * r.sx ∧ r.y = y0 + j * r.sy
    ∧ r.e = r.dx * (2 * j + 1) - r.dy * (2 * i + 1)

/-- The invariant's clause for the line says the registers stand so. -/
theorem onLine_iff (l : Latches) (r : LineRegs) :
    onLine l r ↔ ∃ i j, lineAt (coordInt l.lx0) (coordInt l.ly0) (coordInt l.lx1) (coordInt l.ly1) i j r := Iff.rfl

/-- They start at no moves. -/
theorem lineAt_start (x0 y0 x1 y1) : lineAt x0 y0 x1 y1 0 0 (lineStart x0 y0 x1 y1) := by
  refine ⟨by omega, by omega, rfl, rfl, rfl, rfl, ?_, ?_, ?_⟩ <;> simp [lineStart]

/-- They stand at the second endpoint exactly when all moves are made. -/
theorem lineAt_end {x0 y0 x1 y1 i j r} (h : lineAt x0 y0 x1 y1 i j r) :
    (r.x = x1 ∧ r.y = y1) ↔ (i = (x1-x0).natAbs ∧ j = (y1-y0).natAbs) := by
  obtain ⟨hi, hj, hdx, hdy, hsx, hsy, hx, hy, hee⟩ := h
  have hX : ((x1-x0).natAbs : Int) * r.sx = x1 - x0 := by rw [hsx]; exact natAbs_mul_sign_eq _
  have hY : ((y1-y0).natAbs : Int) * r.sy = y1 - y0 := by rw [hsy]; exact natAbs_mul_sign_eq _
  constructor
  · rintro ⟨h1, h2⟩
    constructor
    · rw [hx] at h1
      by_cases h0 : x1 - x0 = 0
      · simp [h0] at hi ⊢; omega
      · have hs : r.sx ≠ 0 := by rw [hsx]; simpa using h0
        have : (i : Int) * r.sx = ((x1-x0).natAbs : Int) * r.sx := by rw [hX]; omega
        have := mul_right_cancel₀ hs this
        exact_mod_cast this
    · rw [hy] at h2
      by_cases h0 : y1 - y0 = 0
      · simp [h0] at hj ⊢; omega
      · have hs : r.sy ≠ 0 := by rw [hsy]; simpa using h0
        have : (j : Int) * r.sy = ((y1-y0).natAbs : Int) * r.sy := by rw [hY]; omega
        have := mul_right_cancel₀ hs this
        exact_mod_cast this
  · rintro ⟨h1, h2⟩
    rw [hx, hy, h1, h2, hX, hY]; constructor <;> omega

/-- Before the end, the loop makes an x-move or a y-move, by the sign of `e`, and stays on the line. -/
theorem lineAt_move {x0 y0 x1 y1 i j r} (h : lineAt x0 y0 x1 y1 i j r)
    (he : ¬ (i = (x1-x0).natAbs ∧ j = (y1-y0).natAbs)) :
   (i < (x1-x0).natAbs ∧ lineAt x0 y0 x1 y1 (i+1) j (lineMove r) ∧ 0 < r.e)
       ∨ (j < (y1-y0).natAbs ∧ lineAt x0 y0 x1 y1 i (j+1) (lineMove r) ∧ r.e ≤ 0) := by
  obtain ⟨hi, hj, hdx, hdy, hsx, hsy, hx, hy, hee⟩ := h
  have hi' : (i : Int) ≤ r.dx := by rw [hdx]; exact_mod_cast hi
  have hj' : (j : Int) ≤ r.dy := by rw [hdy]; exact_mod_cast hj
  have h0 : 0 ≤ r.dx := by rw [hdx]; positivity
  have h1 : 0 ≤ r.dy := by rw [hdy]; positivity
  have hend : ¬ ((i : Int) = r.dx ∧ (j : Int) = r.dy) := by
    rintro ⟨h1, h2⟩; apply he; rw [hdx] at h1; rw [hdy] at h2; exact ⟨by exact_mod_cast h1, by exact_mod_cast h2⟩
  by_cases hp : r.e > 0
  · left
    have hlt : (i : Int) < r.dx := by
      rcases lt_or_eq_of_le hi' with h | h
      · exact h
      · exfalso
        have hjl : (j : Int) + 1 ≤ r.dy := by
          rcases lt_or_eq_of_le hj' with h2 | h2
          · omega
          · exact absurd ⟨h, h2⟩ hend
        rw [hee, h] at hp
        nlinarith
    have hlt' : i < (x1-x0).natAbs := by rw [hdx] at hlt; exact_mod_cast hlt
    refine ⟨hlt', ⟨hlt', hj, ?_⟩, hp⟩
    unfold lineMove; rw [if_pos hp]
    refine ⟨hdx, hdy, hsx, hsy, ?_, hy, ?_⟩
    · show r.x + r.sx = x0 + ((i+1 : Nat) : Int) * r.sx; rw [hx]; push_cast; ring
    · show r.e - 2 * r.dy = r.dx * (2 * (j : Int) + 1) - r.dy * (2 * ((i+1 : Nat) : Int) + 1); rw [hee]; push_cast; ring
  · right
    have hlt : (j : Int) < r.dy := by
      rcases lt_or_eq_of_le hj' with h | h
      · exact h
      · exfalso
        have hil : (i : Int) + 1 ≤ r.dx := by
          rcases lt_or_eq_of_le hi' with h2 | h2
          · omega
          · exact absurd ⟨h2, h⟩ hend
        rw [hee, h] at hp
        nlinarith
    have hlt' : j < (y1-y0).natAbs := by rw [hdy] at hlt; exact_mod_cast hlt
    refine ⟨hlt', ⟨hi, hlt', ?_⟩, by omega⟩
    unfold lineMove; rw [if_neg hp]
    refine ⟨hdx, hdy, hsx, hsy, hx, ?_, ?_⟩
    · show r.y + r.sy = y0 + ((j+1 : Nat) : Int) * r.sy; rw [hy]; push_cast; ring
    · show r.e + 2 * r.dx = r.dx * (2 * ((j+1 : Nat) : Int) + 1) - r.dy * (2 * (i : Int) + 1); rw [hee]; push_cast; ring

/-- The distance left after `i` unit moves. -/
theorem natAbs_sub_moves (a b : Int) (i : Nat) (h : i ≤ (b - a).natAbs) :
    (b - (a + i * (b - a).sign)).natAbs = (b - a).natAbs - i := by
  rcases lt_trichotomy (b - a) 0 with h0 | h0 | h0
  · rw [Int.sign_eq_neg_one_of_neg h0]; omega
  · rw [h0]; simp; omega
  · rw [Int.sign_eq_one_of_pos h0]; omega

/-- The distances left on both axes. -/
theorem lineAt_dist {x0 y0 x1 y1 i j r} (h : lineAt x0 y0 x1 y1 i j r) :
    (x1 - r.x).natAbs = (x1-x0).natAbs - i ∧ (y1 - r.y).natAbs = (y1-y0).natAbs - j := by
  obtain ⟨hi, hj, _, _, hsx, hsy, hx, hy, _⟩ := h
  rw [hx, hy, hsx, hsy]
  exact ⟨natAbs_sub_moves _ _ _ hi, natAbs_sub_moves _ _ _ hj⟩

/-! The glyph loop. -/

/-- Glyph bit `idx`, counted down the columns from the left, is followed by bit `idx + 1`, and the last by the next
character. -/
theorem textNext_flat (k cx idx) (h : idx < 48) :
    textNext k cx (idx/8) (idx%8) = if idx + 1 < 48 then .text k cx ((idx+1)/8) ((idx+1)%8) else .text (k+1) (cx+7) 0 0 := by
  by_cases h8 : idx % 8 + 1 < 8
  · have : textNext k cx (idx/8) (idx%8) = .text k cx (idx/8) (idx%8+1) := by simp [textNext, Config.glyphRows, h8]
    rw [this, if_pos (by omega)]; congr 1 <;> omega
  · by_cases h6 : idx / 8 + 1 < 6
    · have : textNext k cx (idx/8) (idx%8)
        = .text k cx (idx/8+1) 0 := by simp [textNext, Config.glyphRows, Config.glyphCols, h8, h6]
      rw [this, if_pos (by omega)]; congr 1 <;> omega
    · have : textNext k cx (idx/8) (idx%8)
        = .text (k+1) (cx+7) 0 0 := by simp [textNext, Config.glyphRows, Config.glyphCols, Config.advance, h8, h6]
      rw [this, if_neg (by omega)]

/-! FLUSH's transactions. -/

/-- Transaction `q` of FLUSH, counted through the pages, is followed by transaction `q + 1`. -/
theorem flushNext_flat (q : Nat) : flushNext (q/4) (q%4) = .flushSend ((q+1)/4) ((q+1)%4) := by
  unfold flushNext; split <;> congr 1 <;> omega

/-- A page's data are its slice reversed. -/
theorem pageData_eq (s : State) (p) : pageData s p = (pageSlice s p).reverse := by
  apply List.ext_getElem
  · simp [pageData, pageSlice]
  · intro i h1 h2
    simp [pageData, pageSlice]

/-- Four items a page, counted through. -/
theorem flatMap_four {α} (f : Nat → Nat → α) (n : Nat) :
    (List.range n).flatMap (fun p => [f p 0, f p 1, f p 2, f p 3])
      = (List.range (4*n)).map (fun q => f (q/4) (q%4)) := by
  induction n with
  | zero => rfl
  | succ n ih =>
    rw [List.range_succ, List.flatMap_append, ih, show 4*(n+1)
        = 4*n+1+1+1+1 by ring, List.range_succ, List.range_succ, List.range_succ, List.range_succ]
    simp only [List.map_append, List.append_assoc]
    congr 1
    simp
    rw [show (4*n+1)/4 = n by omega, show (4*n+2)/4 = n by omega, show (4*n+3)/4 = n by omega]; exact ⟨rfl, rfl, rfl⟩

/-- The transactions of FLUSH, counted through. -/
theorem flushTxns_eq (s : State) : flushTxns s
    = (List.range (4 * s.params.pages)).map (fun q => flushBytes s (q/4) (q%4)) := by
  rw [← flatMap_four, flushTxns]
  congr 1; funext p
  simp [flushBytes, cmdTxn, dataTxn, pageSelect, pageData_eq, Config.ctrlCmd, Config.ctrlData, Config.colLowCmd,
      Config.colHighCmd, Config.pageCmdBase]

/-- They depend on FB, the parameters and the epoch alone. -/
theorem flushBytes_congr (s u : State) (h1 : u.fb = s.fb) (h2 : u.params = s.params) (h3 : u.epoch = s.epoch) :
    flushBytes u = flushBytes s := by
  funext p j
  have : ∀ i, fbByte u i = fbByte s i := by intro i; simp [fbByte, h1, h3]
  have : pageData u p = pageData s p := by simp [pageData, this, h2]
  match j with
  | 0 => rfl
  | 1 => rfl
  | 2 => rfl
  | _+3 => simp [flushBytes, this]

/-- So does their list. -/
theorem flushTxns_congr (s u : State) (h1 : u.fb = s.fb) (h2 : u.params = s.params) (h3 : u.epoch = s.epoch) :
    flushTxns u = flushTxns s := by
  rw [flushTxns_eq, flushTxns_eq, flushBytes_congr s u h1 h2 h3, h2]

/-- An awaited answer is recorded, and the engine goes on. -/
theorem advance_answered {u : State} {r rest log t e'} (hw : waiting u = true) (ha : u.answers
    = r :: rest) (hl : u.busLog = log ++ [t]) (he : afterAnswer r u.engine = e') :
   advance u = {u with answers := rest, busLog := log ++ [{t with answer := some r}], engine := e'} := by
  simp [advance, hw, busStep, ha, hl, he]

/-! The host's fields and DROP: a running command neither reads nor writes them. -/

/-- A step of the engine commutes with any change of DROP, the host, its record and the schedule. -/
theorem engineStep_with_agents (s : State) (d : Bool) (r : List HostRead) (h : HostAgent) (c : List Turn) :
    engineStep { s with drop := d, hostReads := r, host := h, sched := c }
      = { engineStep s with drop := d, hostReads := r, host := h, sched := c } := by
  have pl : ∀ x y b, plot x y b { s with drop := d, hostReads := r, host := h, sched := c }
      = { plot x y b s with drop := d, hostReads := r, host := h, sched := c } := by
    intro x y b; unfold plot; simp only []; split <;> rfl
  unfold engineStep
  simp only []
  split <;> try rfl
  · unfold fillStep; simp only []; split <;> rfl
  · simp only [pixelStep, pl]
  · simp only [lineStep, pl]
  · simp only [textStep, pl]; split
    · have : ∀ k, textByte { s with drop := d, hostReads := r, host := h, sched := c } k = textByte s k := fun _ => rfl
      simp only [this]
      split; rfl; split <;> rfl
    · rfl
  · unfold initClearStep initSendStep; simp only []; split; rfl; split <;> rfl
  · unfold initSendStep; simp only []; split <;> rfl
  · unfold flushSendStep; simp only []; split
    · have : ∀ p j, flushBytes { s with drop := d, hostReads := r, host := h, sched := c } p j = flushBytes s p j := by
        intro p j; unfold flushBytes; split <;> rfl
      simp only [this]; rfl
    · rfl

/-- So does an answer of the Bus Transport. -/
theorem busStep_with_agents (s : State) (d : Bool) (r : List HostRead) (h : HostAgent) (c : List Turn) :
    busStep { s with drop := d, hostReads := r, host := h, sched := c }
      = { busStep s with drop := d, hostReads := r, host := h, sched := c } := by
  unfold busStep
  have : waiting { s with drop := d, hostReads := r, host := h, sched := c } = waiting s := rfl
  simp only [this]; split
  · split <;> rfl
  · rfl

/-- The view of the block after the command's next event is that event of the view. -/
theorem engineView_advance (s : State) : engineView (advance s) = advance (engineView s) := by
  unfold advance
  have : waiting (engineView s) = waiting s := rfl
  rw [this]
  split
  · exact (busStep_with_agents s _ _ _ _).symm
  · exact (engineStep_with_agents s _ _ _ _).symm

/-- Blocks that look alike run alike. -/
theorem engineView_advanceN {s t : State} (n : Nat) (h : engineView s = engineView t) :
    engineView (advanceN n s) = engineView (advanceN n t) := by
  induction n generalizing s t with
  | zero => exact h
  | succ n ih => exact ih (by rw [engineView_advance, engineView_advance, h])

/-- Blocks that look alike are both busy or neither. -/
theorem busy_of_engineView {s t : State} (h : engineView s = engineView t) : s.busy = t.busy := by
  have := congrArg State.busy h
  exact this

/-- Blocks that look alike have the same framebuffer bytes. -/
theorem fbByte_of_engineView {s t : State} (h : engineView s = engineView t) (i : Nat) : fbByte s i = fbByte t i := by
  have := congrArg (fun u => fbByte u i) h
  exact this

end Sys2Proof.Machine
end

