-- ==== Sys2Proof/Tests/Slice0.lean ====
section
/-! SUPPORT. Tests from the spec's vectors (95_test_vectors), the well-formedness smoke test, and for every obligation
with hypotheses a witness that meets them. -/
namespace Sys2Proof.Tests
open Sys2Proof.Machine

/-! ## Small states -/

/-- An 8x8 display: one page of 8 bytes. The INIT_SEQ is a test value; the glyph ROM has the entry of '0' alone. -/
def small : Params where
  width := 8
  height := 8
  devAddrReset := 0x3C#7
  initSeq := [0xAE#8, 0xA1#8, 0xC8#8, 0x81#8, 0x7F#8, 0xA8#8, 0x3F#8, 0xAD#8, 0xAF#8]
  glyphRom := List.replicate 48 none ++ some Config.glyphZero :: List.replicate 207 none

/-- After a reset. -/
def uninit : State := { State.reset with params := small, devAddr := 0x3C#7 }

/-- FB all 0x00, STATE `ctl`, the engine at `e`, the registers as after a reset. -/
def block (ctl : CtlState) (e : Engine) : State :=
  { uninit with ctl := ctl, engine := e, busy := decide (e ≠ .idle), fb := (List.range 8).map fun i => (i, 0x00#8) }

/-- "READY, cleared" (95_test_vectors, Conventions). -/
def ready : State := block .ready .idle

/-- A command runs in READY, the engine at `e`. -/
def running (e : Engine) : State := block .ready e

/-- INIT runs, FB clear, the engine at `e`. -/
def initRunning (e : Engine) : State := block .initializing e

/-- FLUSH waits for the answer of page 0's page-select, with answers to come. -/
def flushWaits (answers : List Answer) : State :=
  { running (.flushWait 0 0) with busLog := [⟨0x3C#7, [0x00#8, 0xB0#8], none⟩], answers := answers }

/-- READY, cleared, with the text "0" to be drawn at (0, 0). -/
def zeroText : State := { ready with text := [(0, 0x30#8)], textLen := 1#9 }

/-- The host stands before one line, and the next turn is the host's. -/
def before (line : HostLine) (s : State) : State := { s with host := ⟨[line], 0, []⟩, sched := [.host] }

/-! ## Well-formedness: each check refuses an ill-formed term -/

theorem test_small_wf : small.wf = true := by decide +kernel
theorem test_default_geometry : Config.defaultParams.pages = 8 ∧ Config.defaultParams.fbBytes = 1024 := by decide
theorem test_wf_width_zero : { small with width := 0 }.wf = false := by decide
theorem test_wf_width_high : { small with width := 129 }.wf = false := by decide
theorem test_wf_small_framebuffer : { small with width := 1 }.wf = true ∧ { small with width := 1 }.fbBytes = 1 := by
  decide +kernel
theorem test_wf_height_multiple : { small with height := 12 }.wf = false := by decide
theorem test_wf_height_zero : { small with height := 0 }.wf = false := by decide
theorem test_wf_height_high : { small with height := 72 }.wf = false := by decide
theorem test_wf_init_short : { small with initSeq := small.initSeq.drop 1 }.wf = false := by decide
theorem test_wf_init_long : { small with initSeq := List.replicate 65 0x00#8 }.wf = false := by decide
theorem test_wf_rom_length : { small with glyphRom := small.glyphRom.take 255 }.wf = false := by decide +kernel
theorem test_wf_rom_zero : { small with glyphRom := List.replicate 256 none }.wf = false := by decide +kernel
theorem test_instr_wf : ∀ c, (Instr.init c).wf = true := by decide

theorem test_program_wf : programWf (pixelLines 5 10 true 7) = true := by decide
theorem test_program_fb_write : programWf [.wr (.fb 0) 0#32] = false := by decide
theorem test_program_label_twice : programWf [.label 1, .label 1] = false := by decide
theorem test_program_no_label : programWf [.jmp 3] = false := by decide
theorem test_program_bit_range : programWf [.label 1, .bit1 0 32 1] = false := by decide

/-! ## Decoding: words written out from 30_encoding R81 and R83 (RSV, C, OP) -/

theorem test_word_init : decode (0b000000000000000000000000000#27 ++ 0b0#1 ++ 0b0001#4) = .ok (.init false) := by decide
theorem test_word_fill : decode (0b000000000000000000000000000#27 ++ 0b1#1 ++ 0b0010#4) = .ok (.fill true) := by decide
theorem test_word_setPixel : decode (0b000000000000000000000000000#27 ++ 0b1#1 ++ 0b0011#4) = .ok (.setPixel true) := by
  decide
theorem test_word_drawLine : decode (0b000000000000000000000000000#27 ++ 0b0#1 ++ 0b0100#4) = .ok (.drawLine false) := by
  decide
theorem test_word_drawText : decode (0b000000000000000000000000000#27 ++ 0b1#1 ++ 0b0101#4) = .ok (.drawText true) := by
  decide
theorem test_word_flush : decode (0b000000000000000000000000000#27 ++ 0b0#1 ++ 0b0110#4) = .ok (.flush false) := by decide
theorem test_word_reserved_high : decode (0b100000000000000000000000000#27 ++ 0b0#1 ++ 0b0010#4) = .error .reservedBits := by
  decide
theorem test_word_opcode_zero : decode 0#32 = .error .reservedOpcode := by decide
theorem test_word_opcode_15 : decode 0x0F#32 = .error .reservedOpcode := by decide
theorem test_table_word : decodeTableWord 32 0x13 = some (.setPixel true) := by decide
theorem test_mnemonics : commandLine .drawLine false = .wr .cmd 0x04#32 ∧ commandLine .flush true = .wr .cmd 0x06#32 := by
  decide

/-! ## The window (95_test_vectors V-W, V-A) -/

theorem test_w2_x0 : (storeReg (some .x0) 0x00018000#32 uninit).x0 = 0x8000#16
    ∧ wordRead 0x0008#13 (storeReg (some .x0) 0x00018000#32 uninit) = 0xFFFF8000#32 := by decide
theorem test_w4_text_len : wordRead 0x0018#13 (storeReg (some .textLen) 300#32 uninit) = 256#32 := by decide
theorem test_w10_dev_addr : wordRead 0x001C#13 (storeReg (some .devAddr) 0xBD#32 uninit) = 0x3D#32 := by decide
theorem test_w11_dev_addr_ready : storeReg (some .devAddr) 0x3D#32 ready = ready := by rfl
theorem test_w12_text : textByte (storeReg (some (.text 0)) 0x44434241#32 uninit) 0 = 0x41#8
    ∧ textByte (storeReg (some (.text 0)) 0x44434241#32 uninit) 3 = 0x44#8 := by decide
theorem test_w14_misaligned : accessValue .b32 0x1002#13 ready = 0#64 := by decide
theorem test_a1_status : statusWord (reject .badState uninit) = 0x40#32 := by decide
theorem test_a9_status : statusWord (dropWrite (running (.flushSend 0 0))) = 0x105#32 := by decide

/-! ## One event of each command -/

/-- INIT's first transaction is `[0x00, INIT_SEQ[0]]` (43_transfer R181, R172). -/
theorem test_init_first : (advance (initRunning (.initSend 0))).busLog = [⟨0x3C#7, [0x00#8, 0xAE#8], none⟩] := by decide

/-- INIT completes in READY with OK (R181; STATUS 0x04). -/
theorem test_init_end : statusWord (advance (initRunning (.initSend 9))) = 0x04#32 := by decide

/-- V-FI1: a byte of `FILL 1` is 0xFF. -/
theorem test_fill : fbByte (advance { running (.fill 7) with latch := ⟨0#16, 0#16, 0#16, 0#16, true, 0#9⟩ }) 7 = 0xFF#8 := by
  decide

/-- V-P4: SET_PIXEL 1 at (3, 7) sets the top bit of FB[3]. -/
theorem test_pixel : fbByte (advance { running .pixel with latch := ⟨3#16, 7#16, 0#16, 0#16, true, 0#9⟩ }) 3 = 0x80#8 := by
  decide

/-- V-P7: at (-1, 0) nothing is written. -/
theorem test_pixel_clipped :
    (advance { running .pixel with latch := ⟨0xFFFF#16, 0#16, 0#16, 0#16, true, 0#9⟩ }).fb = ready.fb := by decide

/-- V-L4: the path from (3, 2) to (0, 0). -/
theorem test_line_4 : linePath 3 2 0 0 = [(3, 2), (2, 2), (2, 1), (1, 1), (1, 0), (0, 0)] := by decide

/-- V-L5, V-L6 (41_line R132, R139): `e = 0` steps y first, so the swapped segment has other pixels. -/
theorem test_line_swap : linePath 0 0 1 1 = [(0, 0), (0, 1), (1, 1)] ∧ linePath 1 1 0 0 = [(1, 1), (1, 0), (0, 0)] := by
  decide

/-- The glyph of '0' has bits 1 to 5 in column 0 and none in column 5 (42_text R156, R158). -/
theorem test_text_glyph : ((glyphPoints Config.glyphZero 0 0).filter fun q => q.1 = 0) = [(0, 1), (0, 2), (0, 3), (0, 4), (0, 5)]
    ∧ ((glyphPoints Config.glyphZero 0 0).filter fun q => q.1 = 5) = [] := by decide

/-- An unmapped character draws nothing and the cursor moves on by 7 (42_text R153). -/
theorem test_text_unmapped :
    advance { running (.text 0 0 0 0) with latch := ⟨0#16, 0#16, 0#16, 0#16, false, 2#9⟩, text := [(0, 0x41#8)] }
      = { running (.text 1 7 0 0) with latch := ⟨0#16, 0#16, 0#16, 0#16, false, 2#9⟩, text := [(0, 0x41#8)] } := by rfl

/-- E7, E10: page 0's page-select, and its data with the columns reversed. -/
theorem test_flush_bytes : flushBytes ready 0 0 = [0x00#8, 0xB0#8]
    ∧ flushBytes (setFbByte 0 0x55#8 ready) 0 3
      = [0x40#8, 0x00#8, 0x00#8, 0x00#8, 0x00#8, 0x00#8, 0x00#8, 0x00#8, 0x55#8] := by decide

/-- A FAIL ends FLUSH with TRANSPORT_ERROR, STATE still READY (R186; STATUS 0x14). -/
theorem test_flush_fail : statusWord (advance (running .flushAbort)) = 0x14#32 := by decide

/-- The placed command runs at the very next step (log entry 14): V-A2, V-A1. -/
theorem test_fetch_word_illegal :
    (match step (uninit.withFetchWord 32 0x07) with | .next t => statusWord t | _ => 0#32) = 0x30#32 := by decide
theorem test_fetch_word_state :
    (match step (uninit.withFetchWord 32 0x03) with | .next t => statusWord t | _ => 0#32) = 0x40#32 := by decide

/-! ## Witnesses: states and operands that meet the hypotheses of the obligations -/

/-- A small state meets the invariant, whatever its log, answers, host and schedule, if its engine may be where it is. -/
theorem inv_block (ctl : CtlState) (e : Engine) (log : List Transaction) (answers : List Answer) (host : HostAgent)
    (sched : List Turn) (h1 : ctl = .initializing ↔ engineOp e = some .init)
    (h2 : e ≠ .idle → engineOp e ≠ some .init → ctl = .ready)
    (h3 : engineOk { block ctl e with busLog := log }) :
    Inv { block ctl e with busLog := log, answers := answers, host := host, sched := sched } where
  params_wf := test_small_wf
  fb_wf := by rfl
  fb_range := by show ∀ cell ∈ ready.fb, cell.1 < small.fbBytes; decide
  text_wf := rfl
  text_range := by intro cell h; cases h
  text_len := by show (0#9).toNat ≤ 256; decide
  busy_iff := by simp [block]
  initializing_iff := h1
  runs_in_ready := h2
  busy_result := fun _ => rfl
  latch_agrees := fun _ => rfl
  ready_written := by
    intro _; show ∀ i < small.fbBytes, (ready.fb.lookup i).isSome = true; decide
  failed_cleared := by
    intro _; show ∀ i < small.fbBytes, ready.fb.lookup i = some 0x00#8; decide
  engine_ok := h3

/-- A small state at rest meets the invariant. -/
theorem inv_idle (ctl : CtlState) (host : HostAgent) (sched : List Turn) (h : ctl ≠ .initializing) :
    Inv { block ctl .idle with host := host, sched := sched } :=
  inv_block ctl .idle [] [] host sched (by simp [h, engineOp]) (by simp) trivial

theorem inv_flushWaits (answers : List Answer) : Inv (flushWaits answers) :=
  inv_block .ready (.flushWait 0 0) _ answers _ _ (by decide) (by decide) ⟨by decide, by decide, [], _, rfl⟩

theorem inv_zeroText : Inv zeroText where
  params_wf := test_small_wf
  fb_wf := by rfl
  fb_range := by show ∀ cell ∈ ready.fb, cell.1 < small.fbBytes; decide
  text_wf := rfl
  text_range := by show ∀ cell ∈ zeroText.text, cell.1 < 256; decide
  text_len := by show (1#9).toNat ≤ 256; decide
  busy_iff := by simp [zeroText, ready, block]
  initializing_iff := by simp [zeroText, ready, block, engineOp]
  runs_in_ready := by simp [zeroText, ready, block]
  busy_result := fun _ => rfl
  latch_agrees := by intro h; cases h
  ready_written := by
    intro _; show ∀ i < small.fbBytes, (ready.fb.lookup i).isSome = true; decide
  failed_cleared := by intro h; cases h
  engine_ok := trivial

theorem witness_ResetAbandonsTheCommand : { flushWaits [] with sched := [.reset] }.sched = .reset :: [] := rfl

theorem witness_ParametersNeverChange : ∃ t, step { running (.fill 3) with sched := [.reset] } = .next t := ⟨_, rfl⟩

/-- A step of each agent, from states that meet the invariant. -/
theorem witness_StepKeepsTheInvariant :
    (∃ s t, Inv s ∧ (nextTurn s).1 = .host ∧ step s = .next t)
      ∧ (∃ s t, Inv s ∧ (nextTurn s).1 = .engine ∧ step s = .next t)
      ∧ (∃ s t, Inv s ∧ (nextTurn s).1 = .bus ∧ step s = .next t)
      ∧ (∃ s t, Inv s ∧ (nextTurn s).1 = .reset ∧ step s = .next t) :=
  ⟨⟨_, _, inv_idle .ready ⟨[.wr .cmd 0x12#32], 0, []⟩ [.host] (by decide), rfl, rfl⟩,
    ⟨_, _, inv_block .ready (.fill 3) [] [] ⟨[], 0, []⟩ [] (by decide) (by decide) (by show 3 ≤ small.fbBytes; decide),
      rfl, rfl⟩,
    ⟨_, _, inv_flushWaits [.fail], rfl, rfl⟩,
    ⟨_, _, inv_idle .failed ⟨[], 0, []⟩ [.reset] (by decide), rfl, rfl⟩⟩

/-- Each change of STATE in the table of 10_state R23, and a reset. -/
theorem witness_StateTransitionsAreLegal :
    (∃ s t, Inv s ∧ step s = .next t ∧ s.ctl = .uninit ∧ t.ctl = .initializing)
      ∧ (∃ s t, Inv s ∧ step s = .next t ∧ s.ctl = .failed ∧ t.ctl = .initializing)
      ∧ (∃ s t, Inv s ∧ step s = .next t ∧ s.ctl = .initializing ∧ t.ctl = .ready)
      ∧ (∃ s t, Inv s ∧ step s = .next t ∧ s.ctl = .initializing ∧ t.ctl = .failed)
      ∧ (∃ s t, Inv s ∧ step s = .next t ∧ s.ctl = .ready ∧ (nextTurn s).1 = .reset ∧ t.ctl = .uninit) :=
  ⟨⟨_, _, inv_idle .uninit ⟨[.wr .cmd 0x01#32], 0, []⟩ [.host] (by decide), rfl, rfl, rfl⟩,
    ⟨_, _, inv_idle .failed ⟨[.wr .cmd 0x11#32], 0, []⟩ [.host] (by decide), rfl, rfl, rfl⟩,
    ⟨_, _, inv_block .initializing (.initSend 9) [] [] ⟨[], 0, []⟩ [] (by decide) (by decide)
      ⟨by decide, by show ∀ i < small.fbBytes, ready.fb.lookup i = some 0x00#8; decide⟩, rfl, rfl, rfl⟩,
    ⟨_, _, inv_block .initializing .initAbort [] [] ⟨[], 0, []⟩ [] (by decide) (by decide)
      (by show ∀ i < small.fbBytes, ready.fb.lookup i = some 0x00#8; decide), rfl, rfl, rfl⟩,
    ⟨_, _, inv_idle .ready ⟨[], 0, []⟩ [.reset] (by decide), rfl, rfl, rfl, rfl⟩⟩

/-- A step that leaves the log, one that issues, one that records an answer. -/
theorem witness_OneTransactionOutstanding :
    (∃ s t, Inv s ∧ step s = .next t ∧ t.busLog = s.busLog)
      ∧ (∃ s t, Inv s ∧ step s = .next t ∧ waiting s = false ∧ waiting t = true)
      ∧ (∃ s t, Inv s ∧ step s = .next t ∧ waiting s = true ∧ waiting t = false) :=
  ⟨⟨_, _, inv_idle .ready ⟨[], 0, []⟩ [] (by decide), rfl, rfl⟩,
    ⟨_, _, inv_block .ready (.flushSend 0 3) [] [] ⟨[], 0, []⟩ [] (by decide) (by decide)
      ⟨by decide, by decide, by decide⟩, rfl, rfl, rfl⟩,
    ⟨_, _, inv_flushWaits [.ok], rfl, rfl, rfl⟩⟩

/-- By name and by access. -/
theorem witness_StepRunsTheDecodedCommand :
    (∃ s line w i, (nextTurn s).1 = .host ∧ nextLine s = some line ∧ lineWrite line = some (0x0000#13, w)
        ∧ line = .wr .cmd 0x12#32 ∧ decode w = .ok i)
      ∧ (∃ s line w i, (nextTurn s).1 = .host ∧ nextLine s = some line ∧ lineWrite line = some (0x0000#13, w)
        ∧ line = .access (.write .b32 0x0000#13 0xFFFFFFFF00000016#64) ∧ decode w = .ok i) :=
  ⟨⟨before (.wr .cmd 0x12#32) ready, _, _, _, rfl, rfl, rfl, rfl, rfl⟩,
    ⟨before (.access (.write .b32 0x0000#13 0xFFFFFFFF00000016#64)) ready, _, _, _, rfl, rfl, rfl, rfl, rfl⟩⟩

theorem witness_IllegalWordIsRejected : ready.busy = false ∧ (0x21#32).toNat / 32 ≠ 0 ∧ (0x80000002#32).toNat / 32 ≠ 0
    ∧ (0x10#32).toNat % 16 = 0 ∧ 7 ≤ (0x07#32).toNat % 16 ∧ 7 ≤ (0x1F#32).toNat % 16 := by decide

theorem witness_BusyDropsTheCommand : (running (.flushSend 0 0)).busy = true := by decide

/-- Each STATE of each clause. -/
theorem witness_WrongStateIsRejected : ∀ c : CtlState, (block c .idle).busy = false ∧ (block c .idle).ctl = c := by
  intro c; cases c <;> decide

theorem witness_ReadyAcceptsTheCommands : ready.busy = false ∧ ready.ctl = .ready := by decide

theorem witness_InitIsAccepted : (block .uninit .idle).busy = false ∧ (block .uninit .idle).ctl = .uninit
    ∧ (block .failed .idle).busy = false ∧ (block .failed .idle).ctl = .failed := by decide

/-- With its last byte, and the first past it; a build whose last word is covered in part has its last lane. -/
theorem witness_FillFillsTheFramebuffer : ready.busy = false ∧ ready.ctl = .ready ∧ 7 < ready.params.fbBytes
    ∧ ready.params.fbBytes ≤ 8 ∧ 4 * 1 + 3 < ready.params.fbBytes
    ∧ 4 * 0 + 2 < { small with width := 3 }.fbBytes ∧ ¬ 4 * 0 + 3 < { small with width := 3 }.fbBytes := by decide

/-- With the corner pixels, and a byte that does not hold the pixel. -/
theorem witness_SetPixelWritesOnePixel : ready.busy = false ∧ ready.ctl = .ready
    ∧ onScreen ready.params 0 0 = true ∧ onScreen ready.params 7 7 = true
    ∧ ¬ touches ready.params [(coordInt ready.x0, coordInt ready.y0)] 1 := by
  refine ⟨rfl, rfl, rfl, rfl, ?_⟩
  rintro ⟨q, hq, -, hi⟩
  simp only [List.mem_singleton] at hq
  subst hq
  exact absurd hi (by decide)

theorem witness_DrawLinePlotsItsPath : ready.busy = false ∧ ready.ctl = .ready ∧ onScreen ready.params 7 7 = true := by
  decide

theorem witness_LinePlotsInPathOrder : ready.busy = false ∧ ready.ctl = .ready
    ∧ 1 ≤ lineMoves (coordInt ready.x0) (coordInt ready.y0) (coordInt ready.x1) (coordInt ready.y1) + 1 := by decide

/-- V-L3 after its last move (`dy > 0`), and V-L2 after its last (`dy = 0`). -/
theorem witness_LineErrorTermStaysInRange : 4 ≤ lineMoves 0 0 3 1 ∧ 0 < (1 - 0 : Int).natAbs ∧ 10 ≤ lineMoves 0 0 10 0
    ∧ (0 - 0 : Int).natAbs = 0 := by decide

theorem witness_DrawTextPlotsItsGlyphs : zeroText.busy = false ∧ zeroText.ctl = .ready
    ∧ onScreen zeroText.params 7 7 = true := by decide

theorem witness_TextStaysInItsCells : (0, 1) ∈ textPoints zeroText ∧ coordInt zeroText.y0 % 8 = 0
    ∧ 0 ≤ coordInt zeroText.y0 := by decide

theorem witness_ZeroGlyphReproducesItsColumns :
    Inv zeroText ∧ zeroText.busy = false ∧ zeroText.ctl = .ready ∧ 6 ≤ zeroText.params.width ∧ zeroText.x0 = 0#16
      ∧ zeroText.y0 = 0#16 ∧ zeroText.textLen = 1#9 ∧ textByte zeroText 0 = 0x30#8
      ∧ ∀ i < 6, fbByte zeroText i = 0x00#8 :=
  ⟨inv_zeroText, rfl, rfl, by decide, rfl, rfl, rfl, rfl, by decide⟩

theorem witness_InitSendsItsSequence : ∃ s : State, s.params.wf = true ∧ s.busy = false ∧ s.ctl = .failed
    ∧ s.answers = List.replicate s.params.initSeq.length .ok ++ [] :=
  ⟨{ block .failed .idle with answers := List.replicate 9 .ok }, test_small_wf, rfl, rfl, rfl⟩

/-- The first byte of INIT_SEQ, and the last. -/
theorem witness_InitStopsAtTheFirstFail :
    (∃ s : State, s.params.wf = true ∧ s.busy = false ∧ s.ctl = .uninit ∧ 0 < s.params.initSeq.length
        ∧ s.answers = List.replicate 0 .ok ++ .fail :: [])
      ∧ (∃ s : State, s.params.wf = true ∧ s.busy = false ∧ s.ctl = .uninit ∧ 8 < s.params.initSeq.length
        ∧ s.answers = List.replicate 8 .ok ++ .fail :: []) :=
  ⟨⟨{ block .uninit .idle with answers := [.fail] }, test_small_wf, rfl, rfl, by decide, rfl⟩,
    ⟨{ block .uninit .idle with answers := List.replicate 8 .ok ++ .fail :: [] }, test_small_wf, rfl, rfl, by decide, rfl⟩⟩

theorem witness_FlushSendsEveryPage : ∃ s : State, s.busy = false ∧ s.ctl = .ready ∧ s.params.pages = 1
    ∧ s.answers = List.replicate (4 * s.params.pages) .ok ++ [.fail] :=
  ⟨{ ready with answers := [.ok, .ok, .ok, .ok, .fail] }, rfl, rfl, rfl, rfl⟩

/-- The first transaction, and the last. -/
theorem witness_FlushStopsAtTheFirstFail :
    (∃ s : State, s.busy = false ∧ s.ctl = .ready ∧ 0 < 4 * s.params.pages
        ∧ s.answers = List.replicate 0 .ok ++ .fail :: [])
      ∧ (∃ s : State, s.busy = false ∧ s.ctl = .ready ∧ 3 < 4 * s.params.pages
        ∧ s.answers = List.replicate 3 .ok ++ .fail :: []) :=
  ⟨⟨{ ready with answers := [.fail] }, rfl, rfl, by decide, rfl⟩,
    ⟨{ ready with answers := [.ok, .ok, .ok, .fail] }, rfl, rfl, by decide, rfl⟩⟩

/-- The second FLUSH starts where the first has ended. -/
theorem witness_FlushTwiceSendsTheSameBytes : ∃ s v : State, s.busy = false ∧ s.ctl = .ready
    ∧ s.answers = List.replicate (4 * s.params.pages) .ok ++ [] ∧ v.busy = false ∧ v.ctl = .ready
    ∧ v.answers = List.replicate (4 * v.params.pages) .ok ++ [] ∧ v.fb = s.fb ∧ v.devAddr = s.devAddr
    ∧ v.params = s.params ∧ v.epoch = s.epoch ∧ v.busLog ≠ s.busLog :=
  ⟨{ ready with answers := [.ok, .ok, .ok, .ok] },
    { ready with answers := [.ok, .ok, .ok, .ok], busLog := [⟨0x3C#7, [0x00#8, 0xB0#8], some .ok⟩] },
    rfl, rfl, rfl, rfl, rfl, rfl, rfl, rfl, rfl, rfl, by decide⟩

theorem witness_EveryCommandCompletes : Inv (flushWaits (List.replicate 64 .fail))
    ∧ (flushWaits (List.replicate 64 .fail)).busy = true ∧ 64 ≤ (flushWaits (List.replicate 64 .fail)).answers.length :=
  ⟨inv_flushWaits _, rfl, by decide⟩

theorem witness_ColourBitIsIgnored : engineOp (initRunning (.initClear 0)).engine = some .init
    ∧ engineOp (running (.text 0 0 0 0)).engine = some .drawText
    ∧ engineOp (running (.flushSend 0 0)).engine = some .flush := by decide

theorem witness_DrawingNeverTouchesTheBus : engineOp (running (.fill 0)).engine = some .fill
    ∧ engineOp (running .pixel).engine = some .setPixel
    ∧ engineOp (running (.line (lineStart 0 0 0 0))).engine = some .drawLine
    ∧ engineOp (running (.text 0 0 0 0)).engine = some .drawText
    ∧ engineOp (running (.flushSend 0 0)).engine = some .flush
    ∧ engineOp (initRunning (.initClear 0)).engine = some .init := by decide

/-- The last pixel, and one past it on each side. -/
theorem witness_PlotWritesOneBit : onScreen small 7 7 = true ∧ onScreen small 8 0 = false ∧ onScreen small 0 8 = false
    ∧ onScreen small (-1) 0 = false ∧ onScreen small 0 (-1) = false := by decide

theorem witness_HostNeverWritesTheFramebuffer : ∃ s t, (nextTurn s).1 = .host ∧ step s = .next t ∧ t.x0 ≠ s.x0 :=
  ⟨before (.wr .x0 1#32) ready, _, rfl, rfl, by decide⟩

/-- A step of the host, the engine and the Bus Transport. -/
theorem witness_BusyStepIsTheCommandsNextEvent :
    (∃ s t, s.busy = true ∧ (nextTurn s).1 = .host ∧ step s = .next t)
      ∧ (∃ s t, s.busy = true ∧ (nextTurn s).1 = .engine ∧ step s = .next t)
      ∧ (∃ s t, s.busy = true ∧ (nextTurn s).1 = .bus ∧ step s = .next t) :=
  ⟨⟨before (.wr .cmd 0x12#32) (running (.fill 0)), _, rfl, rfl, rfl⟩, ⟨running (.fill 0), _, rfl, rfl, rfl⟩,
    ⟨flushWaits [.ok], _, rfl, rfl, rfl⟩⟩

/-- SET_PIXEL, two events long, and as many moves of the host: BUSY is 1 all the while. FILL, and moves of both. -/
theorem witness_BusyBlockIsAPrefixOfTheCommand :
    (∃ s t : State, s.busy = true ∧ .reset ∉ s.sched ∧ core.run 2 s = .next t ∧ t.busy = true
        ∧ (advanceN 2 s).busy = false)
      ∧ (∃ s t : State, s.busy = true ∧ .reset ∉ s.sched ∧ core.run 3 s = .next t ∧ t.busy = true) :=
  ⟨⟨{ running .pixel with host := ⟨[.rd .status 0, .rd (.fb 0) 0], 0, []⟩, sched := [.host, .host] }, _, rfl, by decide,
      rfl, rfl, rfl⟩,
    ⟨{ running (.fill 0) with sched := [.engine, .host, .engine] }, _, rfl, by decide, rfl, rfl⟩⟩

theorem witness_PollWaitsForTheCommand : ∃ s : State, s.host.code = [.wr .cmd 0x02#32] ++ poll 7 ++ [.jmp 7]
    ∧ .label 7 ∉ [HostLine.wr .cmd 0x02#32] ∧ s.host.pc = [HostLine.wr .cmd 0x02#32].length
    ∧ s.sched = .host :: .host :: .host :: [.engine] ∧ s.busy = true :=
  ⟨{ running (.fill 0) with host := ⟨fillLines false 7 ++ [.jmp 7], 1, []⟩, sched := [.host, .host, .host, .engine] },
    rfl, by decide, rfl, rfl, rfl⟩

theorem witness_UnscheduledStepRunsTheEngine : (running (.fill 0)).sched = [] ∧ (running (.fill 0)).engine ≠ .idle
    ∧ waiting (running (.fill 0)) = false ∧ (flushWaits [.ok]).sched = [] ∧ (flushWaits [.ok]).engine ≠ .idle
    ∧ (flushWaits [.ok]).answers ≠ [] := by decide

theorem witness_UnansweredTransactionHolds : ∃ s t : State, s.busy = true ∧ waiting s = true ∧ s.answers = []
    ∧ (nextTurn s).1 ≠ .reset ∧ step s = .next t :=
  ⟨flushWaits [], _, rfl, rfl, rfl, by decide, rfl⟩

theorem witness_DropIsSticky :
    (∃ s t : State, step s = .next t ∧ s.drop = true ∧ t.drop = false ∧ (nextTurn s).1 = .reset)
      ∧ (∃ s t : State, step s = .next t ∧ s.drop = true ∧ t.drop = false ∧ (nextTurn s).1 = .host)
      ∧ (∃ s t : State, step s = .next t ∧ s.drop = false ∧ t.drop = true ∧ (nextTurn s).1 = .host) :=
  ⟨⟨{ ready with drop := true, sched := [.reset] }, _, rfl, rfl, rfl, rfl⟩,
    ⟨before (.wr .status 0x100#32) { ready with drop := true }, _, rfl, rfl, rfl, rfl⟩,
    ⟨before (.wr .x0 1#32) (running (.fill 0)), _, rfl, rfl, rfl, rfl⟩⟩

theorem witness_ResultChangesOnlyAtItsEvents :
    (∃ s t : State, step s = .next t ∧ t.result ≠ s.result ∧ (nextTurn s).1 = .reset)
      ∧ (∃ s t : State, step s = .next t ∧ t.result ≠ s.result ∧ (nextTurn s).1 = .host)
      ∧ (∃ s t : State, step s = .next t ∧ t.result ≠ s.result ∧ (nextTurn s).1 = .engine) :=
  ⟨⟨{ ready with result := .badState, sched := [.reset] }, _, rfl, by decide, rfl⟩,
    ⟨before (.wr .cmd 0x07#32) ready, _, rfl, by decide, rfl⟩, ⟨running .flushAbort, _, rfl, by decide, rfl⟩⟩

/-- The first offset and the last, and two that are misaligned. -/
theorem witness_BusyWriteOnlySetsDrop : (running (.fill 0)).busy = true ∧ 0x0000#13 ≠ 0x0004#13 ∧ 0x1FFC#13 ≠ 0x0004#13
    ∧ 0x0005#13 ≠ 0x0004#13 ∧ 0x1FFF#13 ≠ 0x0004#13 := by decide

/-- Each width, and each misalignment. -/
theorem witness_OtherAccessesDoNothing : AccessSize.b8 ≠ .b32 ∧ AccessSize.b16 ≠ .b32 ∧ AccessSize.b64 ≠ .b32
    ∧ (0x0001#13).toNat % 4 ≠ 0 ∧ (0x1002#13).toNat % 4 ≠ 0 ∧ (0x1FFF#13).toNat % 4 ≠ 0 := by decide

theorem witness_ReadsChangeNothing : (0x0000#13).toNat % 4 = 0 ∧ (0x1FFC#13).toNat % 4 = 0 := by decide

theorem witness_CoordinateRegistersKeepSixteenBits : ready.busy = false := by decide

theorem witness_TextLengthSaturates : uninit.busy = false := by decide

/-- Each STATE of each clause, with BUSY 0. -/
theorem witness_DeviceAddressIsFixedOnceInitialised :
    ∀ c : CtlState, (block c .idle).busy = false ∧ (block c .idle).ctl = c := by
  intro c; cases c <;> decide

/-- The first text word and the last, and characters just outside each. -/
theorem witness_TextWordsAreLittleEndian : ready.busy = false ∧ 0 < 64 ∧ 63 < 64 ∧ 4 * 0 + 4 ≤ 4 ∧ 251 < 4 * 63 := by
  decide

/-- The first and the last word of the window, and the lanes on either side of FB_BYTES. -/
theorem witness_FramebufferWindowLanes : 0 < 256 ∧ 255 < 256 ∧ 3 < 4 ∧ 4 * 1 + 3 < ready.params.fbBytes
    ∧ ¬ 4 * 2 + 0 < ready.params.fbBytes := by decide

/-- The ends of each range of the map. -/
theorem witness_ReadOnlyOffsetsIgnoreWrites :
    (∀ o ∈ [0x1000#13, 0x13FC#13], 0x1000 ≤ o.toNat ∧ o.toNat < 0x1400)
    ∧ (∀ o ∈ [0x0024#13, 0x00FC#13], 0x0024 ≤ o.toNat ∧ o.toNat < 0x0100)
    ∧ (∀ o ∈ [0x0200#13, 0x0FFC#13], 0x0200 ≤ o.toNat ∧ o.toNat < 0x1000)
    ∧ (∀ o ∈ [0x1400#13, 0x1FFC#13], 0x1400 ≤ o.toNat) := by
  refine ⟨?_, ?_, ?_, ?_⟩ <;> simp

theorem witness_GeometryAndCommandRead : uninit.params.wf = true := test_small_wf

end Sys2Proof.Tests
end

section
/-! PROOFS, 00_scope. What a move of the host leaves of the framebuffer. FB's contents are the list of written bytes and,
for the others, the free values of the present `epoch` (10_state R40): a move that keeps both keeps every byte. -/
namespace Sys2Proof.Machine

/-- A framebuffer byte depends on the written bytes and on the epoch alone. -/
theorem fbByte_congr {s t : State} (hfb : t.fb = s.fb) (hepoch : t.epoch = s.epoch) (i : Nat) :
    fbByte t i = fbByte s i := by
  rw [fbByte, fbByte, hfb, hepoch]

/-- A command write starts a command at most; its plots are later moves, of the engine (70_reset R243). -/
theorem commandWrite_keeps_fb {w : Word} {s t : State} (h : commandWrite w s = .next t) :
    t.fb = s.fb ∧ t.epoch = s.epoch := by
  obtain ⟨-, rfl⟩ | ⟨-, code, rfl⟩ | ⟨-, -, c, e, rfl, -⟩ | ⟨-, -, c, rfl⟩ := commandWrite_cases h
  · exact ⟨dropWrite_fb s, dropWrite_epoch s⟩
  · exact ⟨reject_fb code s, reject_epoch code s⟩
  · exact ⟨accept_fb c e s, accept_epoch c e s⟩
  · exact ⟨accept_fb c (.initClear 0) s, accept_epoch c (.initClear 0) s⟩

/-- No word write stores into FB, not even at an offset of the FB window (20_memory R54). -/
theorem wordWrite_keeps_fb {o : Offset} {v : Word} {s t : State} (h : wordWrite o v s = .next t) :
    t.fb = s.fb ∧ t.epoch = s.epoch := by
  obtain ⟨-, e⟩ | ⟨-, e⟩ | ⟨-, e⟩ | ⟨-, e⟩ := wordWrite_cases o v s <;> rw [e] at h
  · exact commandWrite_keeps_fb h
  · cases h; exact ⟨statusWrite_fb v s, statusWrite_epoch v s⟩
  · cases h; exact ⟨dropWrite_fb s, dropWrite_epoch s⟩
  · cases h
    obtain ⟨_, _, _, _, _, _, _, hstore⟩ := storeReg_frame (regAt o.toNat) v s
    rw [hstore]
    exact ⟨rfl, rfl⟩

/-- A move of the host keeps FB: only its word writes reach the block, and they keep it. -/
theorem hostStep_keeps_fb {s t : State} (h : hostStep s = .next t) : t.fb = s.fb ∧ t.epoch = s.epoch := by
  obtain ⟨_, _, _, -, -, hwrite⟩ | ⟨_, _, rfl⟩ := hostStep_cases h
  · simpa using wordWrite_keeps_fb hwrite
  · exact ⟨rfl, rfl⟩

/-- Settles O37, by the cases of a host move: each keeps the written bytes and the epoch. -/
theorem hostNeverWritesTheFramebuffer : Obligations.HostNeverWritesTheFramebuffer := by
  unfold Obligations.HostNeverWritesTheFramebuffer
  intro s t hturn hstep i
  obtain ⟨sched, -, hmove⟩ := step_cases hstep
  have hhost : hostStep { s with sched := sched } = .next t := by simpa [hturn] using hmove
  obtain ⟨hfb, hepoch⟩ := hostStep_keeps_fb hhost
  exact fbByte_congr hfb hepoch i

end Sys2Proof.Machine
end

section
/-! PROOFS, 10_state. The invariant (R21, R24, R29, R30, R36, R37): what it says of a block at rest, of one that runs a
command and of one just reset, and that the moves of each agent keep it. -/
namespace Sys2Proof.Machine

/-! Legal parameters. -/

theorem params_wf_iff (p : Params) :
    p.wf = true ↔ 1 ≤ p.width ∧ p.width ≤ 128 ∧ p.height % 8 = 0 ∧ 8 ≤ p.height ∧ p.height ≤ 64
      ∧ 9 ≤ p.initSeq.length ∧ p.initSeq.length ≤ 64 ∧ p.glyphRom.length = 256
      ∧ p.glyphRom[Config.codeZero]? = some (some Config.glyphZero) := by
  simp only [Params.wf, Bool.and_eq_true, decide_eq_true_eq, and_assoc]

/-- A legal build has framebuffer bytes. -/
theorem fbBytes_pos {p : Params} (h : p.wf = true) : 0 < p.fbBytes := by
  obtain ⟨hw, -, -, hh, -⟩ := (params_wf_iff p).mp h
  exact Nat.mul_pos hw (Nat.div_pos hh (by decide))

/-! The engine, the bus and STATE. -/

/-- The engine runs no command exactly when it is idle (R35). -/
@[simp] theorem engineOp_eq_none_iff (e : Engine) : engineOp e = none ↔ e = .idle := by
  cases e <;> simp [engineOp]

/-- An idle engine has no progress to be wrong about. -/
theorem engineOk_of_idle {s : State} (h : s.engine = .idle) : engineOk s := by simp [engineOk, h]

/-- With BUSY 0 the engine is idle (R37). -/
theorem Inv.idle_of_not_busy {s : State} (h : Inv s) (hb : s.busy = false) : s.engine = .idle := by
  by_contra hrun
  simp [h.busy_iff.mpr hrun] at hb

/-- With an idle engine STATE is not INITIALIZING (R24). -/
theorem Inv.not_initializing_of_idle {s : State} (h : Inv s) (hidle : s.engine = .idle) : s.ctl ≠ .initializing := by
  simp [h.initializing_iff, hidle, engineOp]

/-- A command never runs in FAILED. -/
theorem Inv.not_failed_of_running {s : State} (h : Inv s) (hrun : s.engine ≠ .idle) : s.ctl ≠ .failed := by
  intro hfailed
  by_cases hop : engineOp s.engine = some .init
  · simp [h.initializing_iff.mpr hop] at hfailed
  · simp [h.runs_in_ready hrun hop] at hfailed

/-! FB while a command runs. -/

/-- `fb` may take the place of `s`'s framebuffer: it is in canonical form, lists only bytes that FB has (R21), and has
every byte written that was. -/
structure FbGrows (s : State) (fb : Memory) : Prop where
  wf : fb.wf = true
  range : ∀ cell ∈ fb, cell.1 < s.params.fbBytes
  written : ∀ i, (s.fb.lookup i).isSome = true → (fb.lookup i).isSome = true

theorem Inv.fbGrows_same {s : State} (h : Inv s) : FbGrows s s.fb := ⟨h.fb_wf, h.fb_range, fun _ hi => hi⟩

theorem Inv.fbGrows_write {s : State} (h : Inv s) {i : Nat} (v : Byte) (hi : i < s.params.fbBytes) :
    FbGrows s (s.fb.write i v) where
  wf := Memory.wf_write i v h.fb_wf
  range := by
    intro cell hcell
    obtain rfl | hold := Memory.mem_write hcell
    · exact hi
    · exact h.fb_range cell hold
  written := by
    intro j hj
    rw [Memory.lookup_write]
    split
    · rfl
    · exact hj

/-! The two kinds of event a running command has: progress and completion. -/

/-- Progress of the running command: FB grows, and the engine goes on within the command. -/
theorem inv_progress {s : State} (h : Inv s) (hrun : s.engine ≠ .idle) {e : Engine}
    (hop : engineOp e = engineOp s.engine) {fb : Memory} (hfb : FbGrows s fb) {log : List Transaction}
    {answers : List Answer} (hok : engineOk { s with fb := fb, engine := e, busLog := log, answers := answers }) :
    Inv { s with fb := fb, engine := e, busLog := log, answers := answers } where
  params_wf := h.params_wf
  fb_wf := hfb.wf
  fb_range := hfb.range
  text_wf := h.text_wf
  text_range := h.text_range
  text_len := h.text_len
  busy_iff := by
    have he : e ≠ .idle := by rwa [Ne, ← engineOp_eq_none_iff, hop, engineOp_eq_none_iff]
    simp [h.busy_iff, hrun, he]
  initializing_iff := by simpa [hop] using h.initializing_iff
  runs_in_ready := fun _ hop' => h.runs_in_ready hrun (hop ▸ hop')
  busy_result := h.busy_result
  latch_agrees := h.latch_agrees
  ready_written := fun hready i hi => hfb.written i (h.ready_written hready i hi)
  failed_cleared := fun hfailed => absurd hfailed (h.not_failed_of_running hrun)
  engine_ok := hok

/-- Completion, STATE becoming `ctl`: READY needs every byte written, FAILED every byte 0x00. -/
theorem inv_complete {s : State} (h : Inv s) (code : ResultCode) {ctl : CtlState} (hctl : ctl ≠ .initializing)
    (hready : ctl = .ready → s.ctl = .ready ∨ fbCleared s) (hfailed : ctl = .failed → fbCleared s) :
    Inv { complete code s with ctl := ctl } where
  params_wf := h.params_wf
  fb_wf := h.fb_wf
  fb_range := h.fb_range
  text_wf := h.text_wf
  text_range := h.text_range
  text_len := h.text_len
  busy_iff := by simp
  initializing_iff := by simp [hctl, engineOp]
  runs_in_ready := by simp
  busy_result := by simp
  latch_agrees := by simp
  ready_written := by
    intro hr i hi
    obtain hr | hclear := hready hr
    · exact h.ready_written hr i hi
    · show (s.fb.lookup i).isSome = true
      rw [hclear i hi]; rfl
  failed_cleared := hfailed
  engine_ok := trivial

/-- A drawing command and FLUSH complete in READY. -/
theorem inv_complete_ready {s : State} (h : Inv s) (code : ResultCode) (hready : s.ctl = .ready) :
    Inv (complete code s) :=
  inv_complete (ctl := s.ctl) h code (by simp [hready]) .inl (by simp [hready])

/-- A plot is progress too, clipped or not. -/
theorem inv_plot_progress {s : State} (h : Inv s) (hrun : s.engine ≠ .idle) {e : Engine}
    (hop : engineOp e = engineOp s.engine) (x y : Int) (c : Bool)
    (hok : engineOk { plot x y c s with engine := e }) : Inv { plot x y c s with engine := e } := by
  obtain ⟨hon, hplot⟩ | ⟨-, hplot⟩ := plot_cases x y c s <;> rw [hplot] at hok ⊢
  · obtain ⟨-, -, hheight, -⟩ := (params_wf_iff _).mp h.params_wf
    exact inv_progress h hrun hop (h.fbGrows_write _ (pixelIndex_lt hheight hon)) hok
  · exact inv_progress h hrun hop h.fbGrows_same hok

/-! The engine's steps. -/

theorem fillStep_keeps_inv {s : State} (h : Inv s) {i : Nat} (he : s.engine = .fill i) : Inv (fillStep i s) := by
  unfold fillStep
  split
  · next hi =>
    exact inv_progress h (by simp [he]) (by simp [he, engineOp]) (h.fbGrows_write _ hi) (Nat.succ_le_of_lt hi)
  · exact inv_complete_ready h .ok (h.runs_in_ready (by simp [he]) (by simp [he, engineOp]))

theorem pixelStep_keeps_inv {s : State} (h : Inv s) (he : s.engine = .pixel) : Inv (pixelStep s) :=
  inv_plot_progress h (by simp [he]) (by simp [he, engineOp]) _ _ _ trivial

/-- An iteration of the loop that does not end it stays on the latched line (41_line R136). -/
theorem onLine_lineMove {l : Latches} {r : LineRegs} (h : onLine l r)
    (hend : ¬(r.x = coordInt l.lx1 ∧ r.y = coordInt l.ly1)) : onLine l (lineMove r) := by
  obtain ⟨i, j, hat⟩ := (onLine_iff l r).mp h
  obtain ⟨-, hmove, -⟩ | ⟨-, hmove, -⟩ := lineAt_move hat (mt (lineAt_end hat).mpr hend)
  · exact ⟨i + 1, j, hmove⟩
  · exact ⟨i, j + 1, hmove⟩

theorem lineStep_keeps_inv {s : State} (h : Inv s) {r : LineRegs} (he : s.engine = .line r) : Inv (lineStep r s) := by
  have hon : onLine s.latch r := by simpa only [engineOk, he] using h.engine_ok
  refine inv_plot_progress h (by simp [he]) ?_ r.x r.y s.latch.lcolor ?_
  · split <;> simp [he, engineOp]
  · split
    · trivial
    · next hend => simpa [engineOk] using onLine_lineMove hon hend

@[simp] theorem engineOp_textNext (k : Nat) (cx : Int) (col row : Nat) :
    engineOp (textNext k cx col row) = some .drawText := by
  unfold textNext
  split
  · rfl
  · split <;> rfl

/-- A character advances the cursor by 7 (42_text R153). -/
theorem engineOk_text_next {s : State} {k : Nat} {cx : Int} (hk : k < s.latch.llen.toNat)
    (hcx : cx = coordInt s.latch.lx0 + 7 * k) :
    engineOk { s with engine := .text (k + 1) (cx + Config.advance) 0 0 } := by
  refine ⟨hk, ?_, by decide, by decide⟩
  simp only [hcx, Config.advance]
  push_cast
  ring

theorem engineOk_textNext {s : State} {k : Nat} {cx : Int} {col row : Nat} (hk : k < s.latch.llen.toNat)
    (hcx : cx = coordInt s.latch.lx0 + 7 * k) (hcol : col < 6) :
    engineOk { s with engine := textNext k cx col row } := by
  unfold textNext
  split
  · next hr => exact ⟨hk.le, hcx, hcol, hr⟩
  · split
    · next hc => exact ⟨hk.le, hcx, hc, by decide⟩
    · exact engineOk_text_next hk hcx

theorem textStep_keeps_inv {s : State} (h : Inv s) {k : Nat} {cx : Int} {col row : Nat}
    (he : s.engine = .text k cx col row) : Inv (textStep k cx col row s) := by
  have hrun : s.engine ≠ .idle := by simp [he]
  have hop : engineOp s.engine = some .drawText := by simp [he, engineOp]
  obtain ⟨-, hcx, hcol, -⟩ : k ≤ s.latch.llen.toNat ∧ cx = coordInt s.latch.lx0 + 7 * k ∧ col < 6 ∧ row < 8 := by
    simpa only [engineOk, he] using h.engine_ok
  unfold textStep
  split
  · next hk =>
    split
    · exact inv_progress h hrun (by simp [he, engineOp]) h.fbGrows_same (engineOk_text_next hk hcx)
    · split
      · refine inv_plot_progress h hrun (by simp [hop]) _ _ _ ?_
        exact engineOk_textNext (by simpa using hk) (by simpa using hcx) hcol
      · exact inv_progress h hrun (by simp [hop]) h.fbGrows_same (engineOk_textNext hk hcx hcol)
  · exact inv_complete_ready h .ok (h.runs_in_ready hrun (by simp [hop]))

/-- INIT in its sending phase: FB is clear, and so it is when INIT completes in READY (43_transfer R181). -/
theorem initSendStep_keeps_inv {s : State} (h : Inv s) {n : Nat} (he : s.engine = .initSend n) :
    Inv (initSendStep n s) := by
  obtain ⟨-, hclear⟩ : n ≤ s.params.initSeq.length ∧ fbCleared s := by simpa only [engineOk, he] using h.engine_ok
  unfold initSendStep
  split
  · next b hb =>
    have hn : n < s.params.initSeq.length := (List.getElem?_eq_some_iff.mp hb).1
    exact inv_progress h (by simp [he]) (by simp [he, engineOp]) h.fbGrows_same ⟨hn, hclear, s.busLog, _, rfl⟩
  · exact inv_complete h .ok (by decide) (fun _ => .inr hclear) (by simp)

theorem initClearStep_keeps_inv {s : State} (h : Inv s) {i : Nat} (he : s.engine = .initClear i) :
    Inv (initClearStep i s) := by
  obtain ⟨hi, hbelow⟩ : i < s.params.fbBytes ∧ ∀ j < i, s.fb.lookup j = some 0x00#8 := by
    simpa only [engineOk, he] using h.engine_ok
  have hcleared : ∀ j < i + 1, (s.fb.write i 0x00#8).lookup j = some 0x00#8 := by
    intro j hj
    rw [Memory.lookup_write]
    split
    · rfl
    · exact hbelow j (by omega)
  rw [initClearStep, if_pos hi]
  refine inv_progress h (by simp [he]) ?_ (h.fbGrows_write _ hi) ?_
  · split <;> simp [he, engineOp]
  · split
    · next hnext => exact ⟨hnext, hcleared⟩
    · next hlast => exact ⟨Nat.zero_le _, fun j (hj : j < s.params.fbBytes) => hcleared j (by omega)⟩

/-- INIT fails with FB clear, so FAILED has it clear (43_transfer R184). -/
theorem initAbortStep_keeps_inv {s : State} (h : Inv s) (he : s.engine = .initAbort) : Inv (initAbortStep s) := by
  have hclear : fbCleared s := by simpa only [engineOk, he] using h.engine_ok
  exact inv_complete h .initError (by decide) (by simp) fun _ => hclear

theorem flushSendStep_keeps_inv {s : State} (h : Inv s) {p j : Nat} (he : s.engine = .flushSend p j) :
    Inv (flushSendStep p j s) := by
  obtain ⟨-, hj, -⟩ : p ≤ s.params.pages ∧ j < 4 ∧ (p = s.params.pages → j = 0) := by
    simpa only [engineOk, he] using h.engine_ok
  unfold flushSendStep
  split
  · next hp =>
    exact inv_progress h (by simp [he]) (by simp [he, engineOp]) h.fbGrows_same ⟨hp, hj, s.busLog, _, rfl⟩
  · exact inv_complete_ready h .ok (h.runs_in_ready (by simp [he]) (by simp [he, engineOp]))

/-- A step of the engine keeps the invariant. -/
theorem engineStep_keeps_inv {s : State} (h : Inv s) : Inv (engineStep s) := by
  have completes (code : ResultCode) (hrun : s.engine ≠ .idle) (hop : engineOp s.engine ≠ some .init) :
      Inv (complete code s) := inv_complete_ready h code (h.runs_in_ready hrun hop)
  unfold engineStep
  split
  · exact h
  · next he => exact fillStep_keeps_inv h he
  · next he => exact pixelStep_keeps_inv h he
  · next he => exact completes .ok (by simp [he]) (by simp [he, engineOp])
  · next he => exact lineStep_keeps_inv h he
  · next he => exact completes .ok (by simp [he]) (by simp [he, engineOp])
  · next he => exact textStep_keeps_inv h he
  · next he => exact initClearStep_keeps_inv h he
  · next he => exact initSendStep_keeps_inv h he
  · exact h
  · next he => exact initAbortStep_keeps_inv h he
  · next he => exact flushSendStep_keeps_inv h he
  · exact h
  · next he => exact completes .transportError (by simp [he]) (by simp [he, engineOp])

/-! The answers of the Bus Transport. -/

@[simp] theorem engineOp_flushNext (p j : Nat) : engineOp (flushNext p j) = some .flush := by
  unfold flushNext; split <;> rfl

/-- An answer leaves the command running that awaits it. -/
@[simp] theorem engineOp_afterAnswer (r : Answer) (e : Engine) : engineOp (afterAnswer r e) = engineOp e := by
  cases e with
  | initWait n => cases r <;> rfl
  | flushWait p j =>
    cases r
    · exact engineOp_flushNext p j
    · rfl
  | _ => rfl

/-- A transaction is outstanding exactly while INIT or FLUSH waits (43_transfer R171). -/
theorem waiting_iff (s : State) :
    waiting s = true ↔ (∃ n, s.engine = .initWait n) ∨ ∃ p j, s.engine = .flushWait p j := by
  unfold waiting
  cases s.engine <;> simp

/-- A step of the Bus Transport keeps the invariant. -/
theorem busStep_keeps_inv {s : State} (h : Inv s) : Inv (busStep s) := by
  obtain ⟨r, rest, hwait, -, hbus⟩ | ⟨-, hbus⟩ := busStep_cases s <;> rw [hbus]
  · obtain ⟨n, he⟩ | ⟨p, j, he⟩ := (waiting_iff s).mp hwait
    · obtain ⟨hn, hclear, -⟩ : n < s.params.initSeq.length ∧ fbCleared s ∧ lastUnanswered s := by
        simpa only [engineOk, he] using h.engine_ok
      refine inv_progress h (by simp [he]) (engineOp_afterAnswer r _) h.fbGrows_same ?_
      rw [he]
      cases r
      · exact ⟨Nat.succ_le_of_lt hn, hclear⟩
      · exact hclear
    · obtain ⟨hp, hj, -⟩ : p < s.params.pages ∧ j < 4 ∧ lastUnanswered s := by
        simpa only [engineOk, he] using h.engine_ok
      refine inv_progress h (by simp [he]) (engineOp_afterAnswer r _) h.fbGrows_same ?_
      rw [he]
      cases r
      · simp only [afterAnswer, flushNext]
        split
        · next hlt => exact ⟨hp.le, by omega, fun heq => absurd heq hp.ne⟩
        · exact ⟨Nat.succ_le_of_lt hp, by decide, fun _ => rfl⟩
      · trivial
  · exact h

/-! The host's writes. -/

/-- DROP, the host, its record of reads and the schedule are no part of the invariant. -/
theorem inv_with_agents {s : State} (h : Inv s) (d : Bool) (r : List HostRead) (a : HostAgent) (c : List Turn) :
    Inv { s with drop := d, hostReads := r, host := a, sched := c } :=
  ⟨h.params_wf, h.fb_wf, h.fb_range, h.text_wf, h.text_range, h.text_len, h.busy_iff, h.initializing_iff,
    h.runs_in_ready, h.busy_result, h.latch_agrees, h.ready_written, h.failed_cleared, h.engine_ok⟩

/-- At rest, RESULT may be any code. -/
theorem reject_keeps_inv {s : State} (h : Inv s) (hb : s.busy = false) (code : ResultCode) : Inv (reject code s) :=
  ⟨h.params_wf, h.fb_wf, h.fb_range, h.text_wf, h.text_range, h.text_len, h.busy_iff, h.initializing_iff,
    h.runs_in_ready, by simp [hb], h.latch_agrees, h.ready_written, h.failed_cleared, h.engine_ok⟩

/-- Acceptance, STATE becoming `ctl`: INITIALIZING for INIT, else READY as before (30_encoding R95). -/
theorem inv_accept {s : State} (h : Inv s) (c : Bool) {e : Engine} (he : e ≠ .idle) {ctl : CtlState}
    (hinit : ctl = .initializing ↔ engineOp e = some .init)
    (hready : ctl ≠ .initializing → ctl = .ready ∧ s.ctl = .ready)
    (hok : engineOk { accept c e s with ctl := ctl }) : Inv { accept c e s with ctl := ctl } where
  params_wf := h.params_wf
  fb_wf := h.fb_wf
  fb_range := h.fb_range
  text_wf := h.text_wf
  text_range := h.text_range
  text_len := h.text_len
  busy_iff := by simp [he]
  initializing_iff := hinit
  runs_in_ready := fun _ hop => (hready (mt hinit.mp hop)).1
  busy_result := fun _ => rfl
  latch_agrees := fun _ => rfl
  ready_written := by
    rintro rfl
    exact h.ready_written (hready (by decide)).2
  failed_cleared := by
    rintro rfl
    exact absurd (hready (by decide)).1 (by decide)
  engine_ok := hok

/-- A command other than INIT is accepted in READY. -/
theorem accept_keeps_inv {s : State} (h : Inv s) (c : Bool) {e : Engine} (hready : s.ctl = .ready) (he : e ≠ .idle)
    (hop : engineOp e ≠ some .init) (hok : engineOk (accept c e s)) : Inv (accept c e s) :=
  inv_accept (ctl := s.ctl) h c he (by simp [hready, hop]) (fun _ => ⟨hready, hready⟩) hok

/-- A CMD write keeps the invariant, whatever its outcome. -/
theorem commandWrite_keeps_inv {s t : State} {w : Word} (h : Inv s) (ht : commandWrite w s = .next t) : Inv t := by
  obtain ⟨-, rfl⟩ | ⟨hb, code, rfl⟩ | ⟨-, hready, c, e, rfl, he⟩ | ⟨-, -, c, rfl⟩ := commandWrite_cases ht
  · exact inv_with_agents h true s.hostReads s.host s.sched
  · exact reject_keeps_inv h hb code
  · have accepts (hrun : e ≠ .idle) (hop : engineOp e ≠ some .init) (hok : engineOk (accept c e s)) :=
      accept_keeps_inv h c hready hrun hop hok
    obtain rfl | rfl | rfl | rfl | rfl := he
    · exact accepts (by simp) (by simp [engineOp]) (Nat.zero_le _)
    · exact accepts (by simp) (by simp [engineOp]) trivial
    · exact accepts (by simp) (by simp [engineOp]) ⟨0, 0, lineAt_start _ _ _ _⟩
    · exact accepts (by simp) (by simp [engineOp]) ⟨Nat.zero_le _, by simp [latchOperands], by decide, by decide⟩
    · exact accepts (by simp) (by simp [engineOp]) ⟨Nat.zero_le _, by decide, fun _ => rfl⟩
  · exact inv_accept h c (by simp) (by simp [engineOp]) (by simp) ⟨fbBytes_pos h.params_wf, by simp⟩

/-- What a store of TEXT or TEXT_LEN has to keep (R29, R30). -/
structure TextOk (s : State) : Prop where
  wf : s.text.wf = true
  range : ∀ cell ∈ s.text, cell.1 < 256
  len : s.textLen.toNat ≤ 256

theorem Inv.textOk {s : State} (h : Inv s) : TextOk s := ⟨h.text_wf, h.text_range, h.text_len⟩

theorem setTextByte_keeps_textOk {s : State} (h : TextOk s) {j : Nat} (hj : j < 256) (v : Byte) :
    TextOk (setTextByte j v s) where
  wf := setTextByte_text_wf j v h.wf
  range := by
    intro cell hcell
    obtain rfl | hold := Memory.mem_write hcell
    · exact hj
    · exact h.range cell hold
  len := h.len

theorem writeTextWord_keeps_textOk {s : State} (h : TextOk s) (k : Fin 64) (v : Word) :
    TextOk (writeTextWord k.val v s) := by
  have hk := k.isLt
  have h0 := setTextByte_keeps_textOk h (j := 4 * k.val) (by omega) (byteOfWord v 0)
  have h1 := setTextByte_keeps_textOk h0 (j := 4 * k.val + 1) (by omega) (byteOfWord v 1)
  have h2 := setTextByte_keeps_textOk h1 (j := 4 * k.val + 2) (by omega) (byteOfWord v 2)
  exact setTextByte_keeps_textOk h2 (by omega) (byteOfWord v 3)

/-- TEXT_LEN saturates (R29). -/
theorem toNat_textLenOfWord (v : Word) : (textLenOfWord v).toNat = min (v.toNat % 65536) 256 := by
  simp only [textLenOfWord, Config.textMax, BitVec.extractLsb'_toNat, BitVec.toNat_ofNat, Nat.shiftRight_zero]
  omega

theorem storeReg_keeps_textOk {s : State} (h : TextOk s) (n : Option RegName) (v : Word) :
    TextOk (storeReg n v s) := by
  cases n with
  | none => exact h
  | some n =>
    cases n with
    | textLen => exact ⟨h.wf, h.range, (toNat_textLenOfWord v).trans_le (Nat.min_le_right _ _)⟩
    | devAddr => unfold storeReg; simp only []; split <;> exact ⟨h.wf, h.range, h.len⟩
    | text k => exact writeTextWord_keeps_textOk h k v
    | _ => exact ⟨h.wf, h.range, h.len⟩

/-- A store is made at rest, so no latch and no transaction depends on what it changes. -/
theorem storeReg_keeps_inv {s : State} (h : Inv s) (hb : s.busy = false) (n : Option RegName) (v : Word) :
    Inv (storeReg n v s) := by
  have hidle := h.idle_of_not_busy hb
  obtain ⟨htext, hrange, hlen⟩ := storeReg_keeps_textOk h.textOk n v
  obtain ⟨_, _, _, _, _, _, _, hstore⟩ := storeReg_frame n v s
  rw [hstore] at htext hrange hlen ⊢
  exact ⟨h.params_wf, h.fb_wf, h.fb_range, htext, hrange, hlen, h.busy_iff, h.initializing_iff, h.runs_in_ready,
    h.busy_result, by simp [hb], h.ready_written, h.failed_cleared, engineOk_of_idle hidle⟩

theorem statusWrite_keeps_inv {s : State} (h : Inv s) (v : Word) : Inv (statusWrite v s) := by
  unfold statusWrite
  split
  · exact inv_with_agents h false s.hostReads s.host s.sched
  · exact h

theorem wordWrite_keeps_inv {s t : State} {o : Offset} {v : Word} (h : Inv s) (ht : wordWrite o v s = .next t) :
    Inv t := by
  obtain ⟨-, e⟩ | ⟨-, e⟩ | ⟨-, e⟩ | ⟨hb, e⟩ := wordWrite_cases o v s <;> rw [e] at ht
  · exact commandWrite_keeps_inv h ht
  · cases ht; exact statusWrite_keeps_inv h v
  · cases ht; exact inv_with_agents h true s.hostReads s.host s.sched
  · cases ht; exact storeReg_keeps_inv h hb _ v

/-- A move of the host keeps the invariant. -/
theorem hostStep_keeps_inv {s t : State} (h : Inv s) (ht : hostStep s = .next t) : Inv t := by
  obtain ⟨_, _, _, -, -, hwrite⟩ | ⟨reads, host, rfl⟩ := hostStep_cases ht
  · exact wordWrite_keeps_inv (inv_with_agents h s.drop s.hostReads _ s.sched) hwrite
  · exact inv_with_agents h s.drop reads host s.sched

/-! Reset. -/

/-- A block of legal parameters with nothing written, at rest in UNINIT, meets the invariant. -/
theorem inv_of_uninit {s : State} (hp : s.params.wf = true) (hfb : s.fb = []) (htext : s.text = [])
    (hctl : s.ctl = .uninit) (hbusy : s.busy = false) (hidle : s.engine = .idle) (hlen : s.textLen = 0#9) : Inv s where
  params_wf := hp
  fb_wf := by rw [hfb]; rfl
  fb_range := by simp [hfb]
  text_wf := by rw [htext]; rfl
  text_range := by simp [htext]
  text_len := by simp [hlen]
  busy_iff := by simp [hbusy, hidle]
  initializing_iff := by simp [hctl, hidle, engineOp]
  runs_in_ready := fun hrun => absurd hidle hrun
  busy_result := by simp [hbusy]
  latch_agrees := by simp [hbusy]
  ready_written := by simp [hctl]
  failed_cleared := by simp [hctl]
  engine_ok := engineOk_of_idle hidle

theorem resetBlock_keeps_inv {s : State} (h : Inv s) : Inv (resetBlock s) :=
  inv_of_uninit h.params_wf rfl rfl rfl rfl rfl rfl

/-- R7's default column is legal, whatever INIT_SEQ and the open glyphs are. -/
theorem defaultParams_wf : Config.defaultParams.wf = true := by
  have hlen : Config.defaultParams.initSeq.length = 9 + Config.initSeqExtra % 56 := by simp [Config.defaultParams]
  refine (params_wf_iff _).mpr ⟨by decide, by decide, by decide, by decide, by decide, by omega, by omega, ?_, ?_⟩
  · simp [Config.defaultParams]
  · simp [Config.defaultParams, Config.codeZero]

/-- Settles O4: R39's values are a block in UNINIT with nothing written. -/
theorem resetSatisfiesTheInvariant : Obligations.ResetSatisfiesTheInvariant :=
  inv_of_uninit defaultParams_wf rfl rfl rfl rfl rfl rfl

/-- Settles O5, agent by agent: the host's writes, the engine's steps, the Bus Transport's answers, and reset. -/
theorem stepKeepsTheInvariant : Obligations.StepKeepsTheInvariant := by
  unfold Obligations.StepKeepsTheInvariant
  intro s t h hstep
  obtain ⟨sched, -, hmove⟩ := step_cases hstep
  have h' : Inv { s with sched := sched } := inv_with_agents h s.drop s.hostReads s.host sched
  obtain ⟨-, ht⟩ | ⟨-, rfl⟩ | ⟨-, rfl⟩ | ⟨-, rfl⟩ := hmove
  · exact hostStep_keeps_inv h' ht
  · exact engineStep_keeps_inv h'
  · exact busStep_keeps_inv h'
  · exact resetBlock_keeps_inv h'

end Sys2Proof.Machine
end

section
/-! PROOFS, 10_state. The legal transitions of STATE (R23): which events change it, and along which of the table's
lines. -/
namespace Sys2Proof.Machine

@[simp] theorem legalCtl_refl (c : CtlState) : legalCtl c c = true := by cases c <;> rfl

theorem initSendStep_ctl (n : Nat) (s : State) :
    (initSendStep n s).ctl = s.ctl ∨ (initSendStep n s).ctl = .ready := by
  unfold initSendStep
  split
  · exact .inl rfl
  · exact .inr rfl

/-- The engine changes STATE only in INIT, to READY or FAILED. -/
theorem engineStep_ctl (s : State) :
    (engineStep s).ctl = s.ctl
      ∨ (engineOp s.engine = some .init ∧ ((engineStep s).ctl = .ready ∨ (engineStep s).ctl = .failed)) := by
  unfold engineStep
  cases he : s.engine with
  | fill i => left; simp only [fillStep]; split <;> rfl
  | pixel => left; simp [pixelStep]
  | line r => left; simp [lineStep]
  | text k cx col row =>
    left
    simp only [textStep]
    split
    · split
      · rfl
      · split <;> simp
    · rfl
  | initClear i =>
    simp only [initClearStep]
    split
    · exact .inl rfl
    · exact (initSendStep_ctl 0 s).imp_right fun h => ⟨rfl, .inl h⟩
  | initSend n => exact (initSendStep_ctl n s).imp_right fun h => ⟨rfl, .inl h⟩
  | initAbort => exact .inr ⟨rfl, .inr rfl⟩
  | flushSend p j => left; simp only [flushSendStep]; split <;> rfl
  | _ => exact .inl rfl

/-- A word write changes STATE only as INIT is accepted. -/
theorem wordWrite_ctl {o : Offset} {v : Word} {s t : State} (h : wordWrite o v s = .next t) :
    t.ctl = s.ctl ∨ ((s.ctl = .uninit ∨ s.ctl = .failed) ∧ t.ctl = .initializing) := by
  obtain ⟨-, e⟩ | ⟨-, e⟩ | ⟨-, e⟩ | ⟨-, e⟩ := wordWrite_cases o v s <;> rw [e] at h
  · obtain ⟨-, rfl⟩ | ⟨-, code, rfl⟩ | ⟨-, -, c, e, rfl, -⟩ | ⟨-, hctl, c, rfl⟩ := commandWrite_cases h
    · exact .inl rfl
    · exact .inl rfl
    · exact .inl rfl
    · exact .inr ⟨hctl, rfl⟩
  · cases h; exact .inl (statusWrite_ctl v s)
  · cases h; exact .inl rfl
  · cases h
    obtain ⟨_, _, _, _, _, _, _, hstore⟩ := storeReg_frame (regAt o.toNat) v s
    rw [hstore]
    exact .inl rfl

/-- A move of the host changes STATE legally. -/
theorem hostStep_legalCtl {s t : State} (h : hostStep s = .next t) : legalCtl s.ctl t.ctl = true := by
  obtain ⟨_, _, _, -, -, hwrite⟩ | ⟨_, _, rfl⟩ := hostStep_cases h
  · obtain hsame | ⟨hfrom, hto⟩ := wordWrite_ctl hwrite
    · rw [hsame]; exact legalCtl_refl _
    · rw [hto]
      obtain hctl | hctl : s.ctl = .uninit ∨ s.ctl = .failed := hfrom <;> rw [hctl] <;> rfl
  · exact legalCtl_refl _

/-- A step of the engine changes STATE legally: INIT, which alone changes it, runs in INITIALIZING (R24). -/
theorem engineStep_legalCtl {s : State} (h : Inv s) : legalCtl s.ctl (engineStep s).ctl = true := by
  obtain hsame | ⟨hop, hto⟩ := engineStep_ctl s
  · rw [hsame]; exact legalCtl_refl _
  · rw [h.initializing_iff.mpr hop]
    obtain hto | hto := hto <;> rw [hto] <;> rfl

/-- Settles O6, by agent: the host accepts INIT, the engine ends it, and the Bus Transport leaves STATE. -/
theorem stateTransitionsAreLegal : Obligations.StateTransitionsAreLegal := by
  unfold Obligations.StateTransitionsAreLegal
  intro s t h hstep
  obtain ⟨sched, -, ⟨-, ht⟩ | ⟨-, rfl⟩ | ⟨-, rfl⟩ | ⟨hturn, rfl⟩⟩ := step_cases hstep
  · exact .inr (hostStep_legalCtl (s := { s with sched := sched }) ht)
  · exact .inr (engineStep_legalCtl (inv_with_agents h s.drop s.hostReads s.host sched))
  · right; simp
  · exact .inl ⟨hturn, rfl⟩

end Sys2Proof.Machine
end

section
/-! PROOFS, 10_state. The operand latches (R36): the running command's events commute with any change of the operand
registers, which they neither read nor write. -/
namespace Sys2Proof.Machine

/-- The state with other operand registers. -/
def withOperands (a b c d : Coord) (l : BitVec 9) (s : State) : State :=
  { s with x0 := a, y0 := b, x1 := c, y1 := d, textLen := l }

section
variable (a b c d : Coord) (l : BitVec 9) (s : State)

@[simp] theorem withOperands_params : (withOperands a b c d l s).params = s.params := rfl

@[simp] theorem withOperands_engine : (withOperands a b c d l s).engine = s.engine := rfl

@[simp] theorem withOperands_latch : (withOperands a b c d l s).latch = s.latch := rfl

@[simp] theorem withOperands_answers : (withOperands a b c d l s).answers = s.answers := rfl

@[simp] theorem textByte_withOperands (k : Nat) : textByte (withOperands a b c d l s) k = textByte s k := rfl

@[simp] theorem waiting_withOperands : waiting (withOperands a b c d l s) = waiting s := rfl

theorem plot_withOperands (x y : Int) (k : Bool) :
    plot x y k (withOperands a b c d l s) = withOperands a b c d l (plot x y k s) := by
  rw [plot, plot, apply_ite (withOperands a b c d l)]
  rfl

theorem fillStep_withOperands (i : Nat) :
    fillStep i (withOperands a b c d l s) = withOperands a b c d l (fillStep i s) := by
  rw [fillStep, fillStep, apply_ite (withOperands a b c d l)]
  rfl

theorem textStep_withOperands (k : Nat) (cx : Int) (col row : Nat) :
    textStep k cx col row (withOperands a b c d l s) = withOperands a b c d l (textStep k cx col row s) := by
  simp only [textStep, plot_withOperands, withOperands_latch, withOperands_params, textByte_withOperands]
  by_cases hk : k < s.latch.llen.toNat
  · simp only [hk, if_true]
    cases glyphOf s.params (textByte s k) with
    | none => rfl
    | some g =>
      rw [apply_ite (withOperands a b c d l)]
      rfl
  · simp only [hk, if_false]
    rfl

theorem initSendStep_withOperands (n : Nat) :
    initSendStep n (withOperands a b c d l s) = withOperands a b c d l (initSendStep n s) := by
  rw [initSendStep, initSendStep, withOperands_params]
  cases s.params.initSeq[n]? <;> rfl

theorem initClearStep_withOperands (i : Nat) :
    initClearStep i (withOperands a b c d l s) = withOperands a b c d l (initClearStep i s) := by
  rw [initClearStep, initClearStep, initSendStep_withOperands, apply_ite (withOperands a b c d l)]
  rfl

theorem flushSendStep_withOperands (p j : Nat) :
    flushSendStep p j (withOperands a b c d l s) = withOperands a b c d l (flushSendStep p j s) := by
  rw [flushSendStep, flushSendStep, flushBytes_congr s (withOperands a b c d l s) rfl rfl rfl,
    apply_ite (withOperands a b c d l)]
  rfl

/-- A step of the engine commutes with a change of the operand registers. -/
theorem engineStep_withOperands :
    engineStep (withOperands a b c d l s) = withOperands a b c d l (engineStep s) := by
  rw [engineStep, engineStep, withOperands_engine]
  cases s.engine with
  | fill i => exact fillStep_withOperands a b c d l s i
  | pixel => simp only [pixelStep, withOperands_latch, plot_withOperands]; rfl
  | line r => simp only [lineStep, withOperands_latch, plot_withOperands]; rfl
  | text k cx col row => exact textStep_withOperands a b c d l s k cx col row
  | initClear i => exact initClearStep_withOperands a b c d l s i
  | initSend n => exact initSendStep_withOperands a b c d l s n
  | flushSend p j => exact flushSendStep_withOperands a b c d l s p j
  | _ => rfl

/-- So does an answer of the Bus Transport. -/
theorem busStep_withOperands : busStep (withOperands a b c d l s) = withOperands a b c d l (busStep s) := by
  rw [busStep, busStep, withOperands_answers, apply_ite (withOperands a b c d l)]
  cases s.answers <;> rfl

/-- So does the running command's next event. -/
theorem advance_withOperands : advance (withOperands a b c d l s) = withOperands a b c d l (advance s) := by
  rw [advance, advance, busStep_withOperands, engineStep_withOperands, apply_ite (withOperands a b c d l)]
  rfl

end

/-- Settles O34: the next event, an answer or a step of the engine, commutes with a change of the operand registers. -/
theorem engineReadsOnlyTheLatches : Obligations.EngineReadsOnlyTheLatches := by
  unfold Obligations.EngineReadsOnlyTheLatches
  intro s a b c d l
  exact advance_withOperands a b c d l s

end Sys2Proof.Machine
end

section
/-! PROOFS, 10_state. The registers of the window: STATUS (R23, R25, R26), the coordinates (R28), TEXT_LEN (R29),
DEV_ADDR (R31), GEOMETRY (R32), and what they read after a reset (R39). -/
namespace Sys2Proof.Machine

/-! An access of a named register. -/

theorem wordRead_offsetOf (n : RegName) (s : State) : wordRead (offsetOf n) s = readReg n s := by
  rw [wordRead, regAt_offsetOf]

/-- With BUSY 0 a write to a register other than CMD and STATUS stores. -/
theorem wordWrite_offsetOf {n : RegName} (hcmd : n ≠ .cmd) (hstatus : n ≠ .status) (v : Word) {s : State}
    (hb : s.busy = false) : wordWrite (offsetOf n) v s = .next (storeReg (some n) v s) := by
  rw [wordWrite, regAt_offsetOf]
  cases n with
  | cmd => exact absurd rfl hcmd
  | status => exact absurd rfl hstatus
  | _ => simp [hb]

/-- The number of a bit vector in two parts. -/
theorem toNat_append_eq_add {m n : Nat} (x : BitVec m) (y : BitVec n) :
    (x ++ y).toNat = x.toNat * 2 ^ n + y.toNat := by
  rw [BitVec.toNat_append, ← Nat.shiftLeft_add_eq_or_of_lt y.isLt, Nat.shiftLeft_eq]

/-! STATUS. -/

/-- STATUS as a number: its fields at their places (R25). -/
theorem toNat_statusWord (s : State) :
    (statusWord s).toNat
      = s.drop.toNat * 256 + (resultBits s.result).toNat * 16 + (ctlBits s.ctl).toNat * 2 + s.busy.toNat := by
  simp only [statusWord, toNat_append_eq_add, BitVec.toNat_ofBool, BitVec.toNat_ofNat]
  omega

theorem getLsbD_statusWord_busy (s : State) : (statusWord s).getLsbD 0 = s.busy := by
  simp only [statusWord, BitVec.getLsbD_append, BitVec.getLsbD_ofBool]
  simp

theorem getLsbD_statusWord_reserved (s : State) : (statusWord s).getLsbD 3 = false := by
  simp only [statusWord, BitVec.getLsbD_append]
  simp

/-- Bit 8 of STATUS is DROP, and no other bit depends on it. -/
theorem getLsbD_statusWord_with_drop (s : State) (d : Bool) (i : Nat) :
    (statusWord { s with drop := d }).getLsbD i = if i = 8 then d else (statusWord s).getLsbD i := by
  simp only [statusWord, BitVec.getLsbD_append, BitVec.getLsbD_ofBool]
  grind

/-- Settles O48, from the word's number and its bits. -/
theorem statusFields : Obligations.StatusFields := by
  unfold Obligations.StatusFields
  intro s
  rw [show wordRead 0x0004#13 s = statusWord s from wordRead_offsetOf .status s]
  have hnum := toNat_statusWord s
  have hbusy := Bool.toNat_lt s.busy
  have hctl := (ctlBits s.ctl).isLt
  have hresult := (resultBits s.result).isLt
  have hdrop := Bool.toNat_lt s.drop
  refine ⟨getLsbD_statusWord_busy s, ?_, getLsbD_statusWord_reserved s, ?_,
    getLsbD_statusWord_with_drop s s.drop 8, by omega⟩
  · have hfield : (statusWord s).toNat / 2 % 4 = (ctlBits s.ctl).toNat := by omega
    rw [hfield]
    cases s.ctl <;> rfl
  · have hfield : (statusWord s).toNat / 16 % 16 = (resultBits s.result).toNat := by omega
    rw [hfield]
    cases s.result <;> rfl

/-- A STATUS write clears DROP by bit 8. -/
theorem statusWrite_eq (v : Word) (s : State) : statusWrite v s = { s with drop := s.drop && !v.getLsbD 8 } := by
  unfold statusWrite
  cases v.getLsbD 8 <;> simp

/-- Settles O49: the write is `statusWrite`, which changes DROP alone, and DROP is bit 8 of the word. -/
theorem statusWriteClearsDropOnly : Obligations.StatusWriteClearsDropOnly := by
  unfold Obligations.StatusWriteClearsDropOnly
  intro s v
  refine ⟨{ s with drop := s.drop && !v.getLsbD 8 }, ?_, rfl, fun i _ => ?_⟩
  · have hwrite : hostAccess (.write .b32 0x0004#13 v) s = .next (statusWrite (v.setWidth 32) s) := rfl
    rw [hwrite, statusWrite_eq]
    simp
  · exact (congrArg (BitVec.getLsbD · i) (wordRead_offsetOf .status _)).trans
      (getLsbD_statusWord_with_drop s (s.drop && !v.getLsbD 8) i)

/-! The operand registers. -/

theorem coordOfWord_eq (v : Word) : coordOfWord v = v.setWidth 16 :=
  (BitVec.setWidth_eq_extractLsb' (by decide)).symm

theorem devAddrOfWord_eq (v : Word) : devAddrOfWord v = v.setWidth 7 :=
  (BitVec.setWidth_eq_extractLsb' (by decide)).symm

/-- Settles O50, register by register: a store of 16 bits and the read that extends them. -/
theorem coordinateRegistersKeepSixteenBits : Obligations.CoordinateRegistersKeepSixteenBits := by
  unfold Obligations.CoordinateRegistersKeepSixteenBits
  intro s v hb
  have hwrite (n : RegName) (hcmd : n ≠ .cmd) (hstatus : n ≠ .status) := wordWrite_offsetOf hcmd hstatus v hb
  rw [← coordOfWord_eq]
  exact ⟨⟨_, hwrite .x0 (by decide) (by decide), rfl, wordRead_offsetOf .x0 _⟩,
    ⟨_, hwrite .y0 (by decide) (by decide), rfl, wordRead_offsetOf .y0 _⟩,
    ⟨_, hwrite .x1 (by decide) (by decide), rfl, wordRead_offsetOf .x1 _⟩,
    ⟨_, hwrite .y1 (by decide) (by decide), rfl, wordRead_offsetOf .y1 _⟩⟩

/-- Settles O51: the store saturates, and the read keeps the number. -/
theorem textLengthSaturates : Obligations.TextLengthSaturates := by
  unfold Obligations.TextLengthSaturates
  intro s v hb
  refine ⟨_, wordWrite_offsetOf (n := .textLen) (by decide) (by decide) v hb, toNat_textLenOfWord v, rfl, ?_⟩
  have hread : wordRead 0x0018#13 (storeReg (some .textLen) v s) = wordOfTextLen (textLenOfWord v) :=
    wordRead_offsetOf .textLen _
  rw [hread, wordOfTextLen, BitVec.toNat_setWidth_of_le (by decide), toNat_textLenOfWord]

/-! DEV_ADDR. -/

/-- Settles O52: DEV_ADDR stores exactly in the STATEs that accept INIT. -/
theorem deviceAddressIsFixedOnceInitialised : Obligations.DeviceAddressIsFixedOnceInitialised := by
  unfold Obligations.DeviceAddressIsFixedOnceInitialised
  intro s v hb
  have hwrite : wordWrite 0x001C#13 v s = .next (storeReg (some .devAddr) v s) :=
    wordWrite_offsetOf (n := .devAddr) (by decide) (by decide) v hb
  constructor
  · intro hctl
    have hstore : storeReg (some .devAddr) v s = { s with devAddr := v.setWidth 7 } := by
      simp [storeReg, hctl, devAddrOfWord_eq]
    refine ⟨_, hwrite.trans (congrArg _ hstore), rfl, ?_⟩
    have hread : wordRead 0x001C#13 { s with devAddr := v.setWidth 7 } = wordOfDevAddr (v.setWidth 7) :=
      wordRead_offsetOf .devAddr _
    rw [hread, wordOfDevAddr, BitVec.toNat_setWidth_of_le (by decide), BitVec.toNat_setWidth]
  · intro hctl
    have hkeep : storeReg (some .devAddr) v s = s := by
      obtain hctl | hctl := hctl <;> simp [storeReg, hctl]
    rw [hwrite, hkeep]

/-! GEOMETRY and the values at reset. -/

/-- Settles O56: a legal build's WIDTH and HEIGHT fit their halves of GEOMETRY. -/
theorem geometryAndCommandRead : Obligations.GeometryAndCommandRead := by
  unfold Obligations.GeometryAndCommandRead
  intro s hp
  obtain ⟨-, hw, -, -, hh, -⟩ := (params_wf_iff _).mp hp
  refine ⟨?_, wordRead_offsetOf .cmd s⟩
  have hread : wordRead 0x0020#13 s = geometryWord s.params := wordRead_offsetOf .geometry s
  rw [hread, geometryWord, toNat_append_eq_add, BitVec.toNat_ofNat, BitVec.toNat_ofNat]
  omega

/-- Settles O1: each value is `State.reset`'s own; STATUS, DEV_ADDR and GEOMETRY are their words at those values. -/
theorem resetLeavesTheStatedValues : Obligations.ResetLeavesTheStatedValues :=
  ⟨rfl, rfl, rfl, rfl, rfl, rfl, rfl, rfl, rfl, rfl, rfl, wordRead_offsetOf .status _, wordRead_offsetOf .devAddr _,
    wordRead_offsetOf .geometry _⟩

end Sys2Proof.Machine
end

section
/-! PROOFS, 20_memory. The order of moves where none is fixed (R61), the accesses that act and those that do not (R52,
R58), the offsets that store nothing (R54), and the byte lanes of TEXT and of the framebuffer window (R55 to R57). -/
namespace Sys2Proof.Machine

/-! The order of moves. -/

/-- Where no turn is fixed, the policy's agent moves. -/
theorem step_of_unscheduled {s : State} (h : s.sched = []) : step s = move (defaultTurn s) s := by
  simp only [step, nextTurn, h]

/-- Settles O41: the policy gives the turn to the Bus Transport, or else to the engine, as `advance` does. -/
theorem unscheduledStepRunsTheEngine : Obligations.UnscheduledStepRunsTheEngine := by
  unfold Obligations.UnscheduledStepRunsTheEngine
  intro s hsched hrun hanswers
  rw [step_of_unscheduled hsched]
  cases hwait : waiting s with
  | true =>
    have hturn : defaultTurn s = .bus := by simp [defaultTurn, hwait, hanswers hwait]
    simp [hturn, move, advance, hwait]
  | false =>
    have hturn : defaultTurn s = .engine := by simp [defaultTurn, hwait, hrun]
    simp [hturn, move, advance, hwait]

/-! The accesses that act. -/

theorem acts_iff (size : AccessSize) (o : Offset) : acts size o = true ↔ size = .b32 ∧ o.toNat % 4 = 0 := by
  simp [acts]

theorem hostAccess_read (size : AccessSize) (o : Offset) (s : State) :
    hostAccess (.read size o) s
      = .next { s with hostReads := s.hostReads ++ [⟨size, o, accessValue size o s⟩] } := rfl

/-- Settles O46: neither the write nor the read acts. -/
theorem otherAccessesDoNothing : Obligations.OtherAccessesDoNothing := by
  unfold Obligations.OtherAccessesDoNothing
  intro s size o v h
  have hacts : ¬ acts size o = true := by rwa [acts_iff, not_and_or]
  constructor
  · exact if_neg hacts
  · have hvalue : accessValue size o s = 0#64 := if_neg hacts
    rw [hostAccess_read, hvalue]

/-- Settles O47: an aligned 32-bit read acts. -/
theorem readsChangeNothing : Obligations.ReadsChangeNothing := by
  unfold Obligations.ReadsChangeNothing
  intro s o haligned
  have hvalue : accessValue .b32 o s = (wordRead o s).zeroExtend 64 := if_pos ((acts_iff _ _).mpr ⟨rfl, haligned⟩)
  rw [hostAccess_read, hvalue]

/-! The offsets that store nothing. -/

/-- An offset of the framebuffer window holds one of its words (R51). -/
theorem regAt_fbWindow {o : Nat} (hlo : 0x1000 ≤ o) (hhi : o < 0x1400) : ∃ k, regAt o = some (.fb k) := by
  unfold regAt
  rw [dif_neg (by omega), dif_pos ⟨hlo, hhi⟩]
  repeat rw [if_neg (by omega)]
  exact ⟨_, rfl⟩

/-- The offsets between the map's ranges and past its last are reserved (R51). -/
theorem regAt_reserved {o : Nat} (h : (0x0024 ≤ o ∧ o < 0x0100) ∨ (0x0200 ≤ o ∧ o < 0x1000) ∨ 0x1400 ≤ o) :
    regAt o = none := by
  unfold regAt
  rw [dif_neg (by omega), dif_neg (by omega)]
  repeat rw [if_neg (by omega)]

/-- A write where nothing is stored can only set DROP (R54, 70_reset R240). -/
theorem wordWrite_of_no_store {o : Offset} {n : Option RegName} {v : Word} {s : State} (hn : regAt o.toNat = n)
    (hcmd : n ≠ some .cmd) (hstatus : n ≠ some .status) (hstore : storeReg n v s = s) :
    wordWrite o v s = .next (if s.busy then { s with drop := true } else s) := by
  subst hn
  obtain ⟨rfl, -⟩ | ⟨rfl, -⟩ | ⟨hb, hwrite⟩ | ⟨hb, hwrite⟩ := wordWrite_cases o v s
  · exact absurd rfl hcmd
  · exact absurd rfl hstatus
  · rw [hwrite, if_pos hb, dropWrite]
  · rw [hwrite, hstore, if_neg (by simp [hb])]

/-- Settles O55, range by range of the map: what lies there stores nothing. -/
theorem readOnlyOffsetsIgnoreWrites : Obligations.ReadOnlyOffsetsIgnoreWrites := by
  unfold Obligations.ReadOnlyOffsetsIgnoreWrites
  intro s o v
  constructor
  · rintro (rfl | ⟨hlo, hhi⟩)
    · exact wordWrite_of_no_store (regAt_offsetOf .geometry) (by simp) (by simp) rfl
    · obtain ⟨k, hfb⟩ := regAt_fbWindow hlo hhi
      exact wordWrite_of_no_store hfb (by simp) (by simp) rfl
  · intro hrange
    have hnone := regAt_reserved hrange
    exact ⟨wordWrite_of_no_store hnone (by simp) (by simp) rfl, by rw [wordRead, hnone]⟩

/-! The byte lanes. -/

/-- A text-word write sets the word's four characters, lowest byte first, and no other (R55, R56). -/
theorem textByte_writeTextWord (k j : Nat) (v : Word) (s : State) :
    textByte (writeTextWord k v s) j
      = if 4 * k ≤ j ∧ j < 4 * k + 4 then byteOfWord v (j - 4 * k) else textByte s j := by
  simp only [writeTextWord, textByte_setTextByte]
  by_cases hj : 4 * k ≤ j ∧ j < 4 * k + 4
  · obtain rfl | rfl | rfl | rfl : j = 4 * k ∨ j = 4 * k + 1 ∨ j = 4 * k + 2 ∨ j = 4 * k + 3 := by omega
    all_goals simp
  · rw [if_neg hj]
    repeat rw [if_neg (by omega)]

theorem textByte_writeTextWord_lane (k : Nat) {i : Nat} (hi : i < 4) (v : Word) (s : State) :
    textByte (writeTextWord k v s) (4 * k + i) = byteOfWord v i := by
  rw [textByte_writeTextWord, if_pos (by omega), Nat.add_sub_cancel_left]

theorem writeTextWord_frame (k : Nat) (v : Word) (s : State) :
    writeTextWord k v s = { s with text := (writeTextWord k v s).text } := rfl

/-- Two words of the same four lanes are one. -/
theorem wordOfLanes_congr {f g : Nat → Byte} (h : ∀ i < 4, f i = g i) : wordOfLanes f = wordOfLanes g := by
  rw [wordOfLanes, h 0 (by decide), h 1 (by decide), h 2 (by decide), h 3 (by decide), wordOfLanes]

/-- Settles O53: the store sets the four lanes, and a word is the word of its bytes. -/
theorem textWordsAreLittleEndian : Obligations.TextWordsAreLittleEndian := by
  unfold Obligations.TextWordsAreLittleEndian
  intro s k v hb hk
  have hwrite := wordWrite_offsetOf (n := .text ⟨k, hk⟩) (by simp) (by simp) v hb
  have hlane : ∀ i < 4, textByte (writeTextWord k v s) (4 * k + i) = byteOfWord v i :=
    fun i hi => textByte_writeTextWord_lane k hi v s
  refine ⟨writeTextWord k v s, hwrite, writeTextWord_frame k v s, hlane, fun j hj => ?_, ?_⟩
  · rw [textByte_writeTextWord, if_neg (by omega)]
  · calc wordRead (offsetOf (.text ⟨k, hk⟩)) (writeTextWord k v s)
        = wordOfLanes (fun i => textByte (writeTextWord k v s) (4 * k + i)) := wordRead_offsetOf _ _
      _ = wordOfLanes (byteOfWord v) := wordOfLanes_congr hlane
      _ = v := wordOfLanes_byteOfWord v

theorem readReg_fb (k : Fin 256) (s : State) :
    readReg (.fb k) s
      = wordOfLanes fun i =>
          if 4 * k.val + i < s.params.fbBytes then fbByte s (4 * k.val + i) else 0x00#8 := rfl

/-- Settles O54: a framebuffer word is read from its lanes. -/
theorem framebufferWindowLanes : Obligations.FramebufferWindowLanes := by
  unfold Obligations.FramebufferWindowLanes
  intro s k i hk hi
  have hread : wordRead (BitVec.ofNat 13 (0x1000 + 4 * k)) s = readReg (.fb ⟨k, hk⟩) s :=
    wordRead_offsetOf (.fb ⟨k, hk⟩) s
  rw [hread, readReg_fb, lane_wordOfLanes _ hi]

end Sys2Proof.Machine
end

section
/-! PROOFS, 30_encoding. Command words: a word is its three fields (R81), so a word with no reserved bit set is the word
of its opcode and colour bit, and the legal words are the twelve of the six opcodes (R83, R86). -/
namespace Sys2Proof

/-! The fields of a word. -/

@[simp] theorem rsvField_commandWord (op : BitVec 4) (c : Bool) : rsvField (commandWord op c) = 0#27 := by
  apply BitVec.eq_of_getLsbD_eq
  intro j hj
  simp only [rsvField, commandWord, BitVec.getLsbD_extractLsb', BitVec.getLsbD_append, BitVec.getLsbD_zero]
  grind

@[simp] theorem cField_commandWord (op : BitVec 4) (c : Bool) : cField (commandWord op c) = c := by
  simp only [cField, commandWord, BitVec.getLsbD_append, BitVec.getLsbD_ofBool]
  rfl

@[simp] theorem opField_commandWord (op : BitVec 4) (c : Bool) : opField (commandWord op c) = op :=
  BitVec.extractLsb'_append_eq_right

/-- A word with no reserved bit set is the word of its other two fields. -/
theorem commandWord_fields {w : Word} (hrsv : rsvField w = 0#27) : commandWord (opField w) (cField w) = w := by
  apply BitVec.eq_of_getLsbD_eq
  intro j hj
  rw [commandWord, ← hrsv]
  simp only [opField, cField, rsvField, BitVec.getLsbD_append, BitVec.getLsbD_ofBool, BitVec.getLsbD_extractLsb']
  grind

/-- The reserved field is 0 exactly when the word is below 32. -/
theorem rsvField_eq_zero_iff (w : Word) : rsvField w = 0#27 ↔ w.toNat / 32 = 0 := by
  rw [← BitVec.toNat_inj, rsvField, BitVec.extractLsb'_toNat, Nat.shiftRight_eq_div_pow, BitVec.toNat_ofNat]
  have := w.isLt
  omega

theorem toNat_opField (w : Word) : (opField w).toNat = w.toNat % 16 := by
  rw [opField, BitVec.extractLsb'_toNat, Nat.shiftRight_zero]

/-! Decoding and encoding. -/

theorem decode_encode (i : Instr) : decode (encode i) = .ok i := by
  cases i <;> simp [encode, decode]

/-- A word that decodes is its command's: no reserved bit is set, and the other fields are the command's. -/
theorem eq_encode_of_decode {w : Word} {i : Instr} (h : decode w = .ok i) : w = encode i := by
  unfold decode at h
  split at h
  · cases h
  · next hrsv =>
    have hword : ∀ op : BitVec 4, (opField w).toNat = op.toNat → w = commandWord op (cField w) := by
      intro op hop
      rw [← BitVec.eq_of_toNat_eq hop, commandWord_fields (not_not.mp hrsv)]
    split at h <;> cases h
    case h_1 hop => exact hword 1#4 hop
    case h_2 hop => exact hword 2#4 hop
    case h_3 hop => exact hword 3#4 hop
    case h_4 hop => exact hword 4#4 hop
    case h_5 hop => exact hword 5#4 hop
    case h_6 hop => exact hword 6#4 hop

/-- Settles O8: a word is the word of its fields, and a command's word has the command's fields. -/
theorem decodeInvertsEncode : Obligations.DecodeInvertsEncode := by
  unfold Obligations.DecodeInvertsEncode
  intro w i
  exact ⟨eq_encode_of_decode, fun h => h ▸ decode_encode i⟩

/-! The legal words. -/

/-- Decoding succeeds exactly with no reserved bit set and an opcode in 1..6 (R86). -/
theorem exists_decode_iff_fields (w : Word) :
    (∃ i, decode w = .ok i) ↔ rsvField w = 0#27 ∧ 1 ≤ (opField w).toNat ∧ (opField w).toNat ≤ 6 := by
  unfold decode
  split
  · next hrsv => simp [hrsv]
  · next hrsv =>
    have hzero := not_not.mp hrsv
    split
    case h_7 =>
      simp_all only [imp_false, true_and, reduceCtorEq, exists_false, false_iff]
      omega
    all_goals next hop => simp [hzero, hop]

/-- Every command: six opcodes, each with either colour bit. -/
def allInstrs : List Instr :=
  [false, true].flatMap fun c => [.init c, .fill c, .setPixel c, .drawLine c, .drawText c, .flush c]

theorem mem_allInstrs (i : Instr) : i ∈ allInstrs := by
  cases i with | _ c => cases c <;> decide

/-- The legal words are the words of the commands. -/
theorem exists_decode_iff_mem (w : Word) : (∃ i, decode w = .ok i) ↔ w ∈ allInstrs.map encode := by
  simp only [decodeInvertsEncode w, List.mem_map, mem_allInstrs, true_and, eq_comm]

/-- Settles O9: the fields as parts of the number, and the words of the commands written out. -/
theorem legalWordsAreTheTwelve : Obligations.LegalWordsAreTheTwelve := by
  unfold Obligations.LegalWordsAreTheTwelve
  intro w
  refine ⟨?_, ?_, ?_⟩
  · rw [exists_decode_iff_fields, rsvField_eq_zero_iff, toNat_opField]
  · rw [exists_decode_iff_mem]
    have hwords : (allInstrs.map encode).Perm [0x01#32, 0x11#32, 0x02#32, 0x12#32, 0x03#32, 0x13#32, 0x04#32, 0x14#32,
        0x05#32, 0x15#32, 0x06#32, 0x16#32] := by decide
    exact hwords.mem_iff
  · cases decode w with
    | ok i => exact .inl ⟨i, rfl⟩
    | error e => exact .inr ⟨e, rfl⟩

/-- Settles O10: each legal word is its command's, and the two others have a reserved opcode or a reserved bit. -/
theorem wordsOfTheSpecDecode : Obligations.WordsOfTheSpecDecode :=
  ⟨decode_encode (.init false), decode_encode (.init true), decode_encode (.fill false), decode_encode (.fill true),
    decode_encode (.setPixel false), decode_encode (.setPixel true), decode_encode (.drawLine false),
    decode_encode (.drawLine true), decode_encode (.drawText false), decode_encode (.drawText true),
    decode_encode (.flush false), decode_encode (.flush true), by decide, by decide⟩

/-! The byte form (log entry 8). -/

/-- Settles O11: the four bytes make up the command's word again. -/
theorem commandBytesDecode : Obligations.CommandBytesDecode := by
  unfold Obligations.CommandBytesDecode
  intro i rest
  have hword : wordOfBytes (byteOfWord (encode i) 0) (byteOfWord (encode i) 1) (byteOfWord (encode i) 2)
      (byteOfWord (encode i) 3) = encode i := Machine.wordOfLanes_byteOfWord (encode i)
  simp only [encodeBytes, List.cons_append, List.nil_append, decodeBytes, hword, decode_encode]

end Sys2Proof
end

section
/-! PROOFS, 30_encoding. The command port: what a write to CMD does in each state (R92, R95, R97), and the host's line
that makes one (R80). -/
namespace Sys2Proof.Machine

/-! A write to CMD. -/

theorem wordWrite_cmd (w : Word) (s : State) : wordWrite 0x0000#13 w s = commandWrite w s := rfl

theorem commandWrite_of_decode {w : Word} {i : Instr} (h : decode w = .ok i) (s : State) :
    commandWrite w s = exec i s := by simp only [commandWrite, h]

/-- With BUSY 1 a command write is dropped, whatever the word (R97). -/
theorem commandWrite_busy (w : Word) {s : State} (hb : s.busy = true) : commandWrite w s = .next (dropWrite s) := by
  obtain ⟨t, ht⟩ := commandWrite_next w s
  obtain ⟨-, rfl⟩ | ⟨hidle, -⟩ | ⟨hidle, -⟩ | ⟨hidle, -⟩ := commandWrite_cases ht
  · exact ht
  all_goals exact absurd hidle (by simp [hb])

/-- Settles O14: an aligned write at CMD's offset is a command write. -/
theorem busyDropsTheCommand : Obligations.BusyDropsTheCommand := by
  unfold Obligations.BusyDropsTheCommand
  intro s w hb
  exact commandWrite_busy w hb

/-! Acceptance. -/

/-- In READY with BUSY 0 the acceptance procedure of a command other than INIT accepts. -/
theorem issue_drawing_of_ready (c : Bool) (e : Engine) {s : State} (hb : s.busy = false) (hready : s.ctl = .ready) :
    issue acceptsDrawing (accept c e) s = accepted c e s :=
  issue_accepts _ hb ((acceptsDrawing_iff _).mpr hready)

/-- Settles O16: the commands differ only in where the engine starts. -/
theorem readyAcceptsTheCommands : Obligations.ReadyAcceptsTheCommands := by
  unfold Obligations.ReadyAcceptsTheCommands
  intro s c hb hready
  have haccept (e : Engine) := congrArg (Host.Outcome.next (φ := Fault) (ρ := Refusal))
    (issue_drawing_of_ready c e hb hready)
  exact ⟨haccept _, haccept _, haccept _, haccept _, haccept _⟩

/-- Settles O17: the acceptance procedure of INIT accepts in the two STATEs. -/
theorem initIsAccepted : Obligations.InitIsAccepted := by
  unfold Obligations.InitIsAccepted
  intro s c hb hctl
  exact congrArg Host.Outcome.next (issue_accepts _ hb ((acceptsInit_iff _).mpr hctl))

/-! The host's line. -/

theorem nextLine_nextTurn (s : State) : nextLine (nextTurn s).2 = nextLine s := by
  obtain ⟨sched, h⟩ := nextTurn_frame s
  rw [h]
  rfl

theorem hostStep_of_nextLine {s : State} {line : HostLine} (h : nextLine s = some line) :
    hostStep s = runLine line (advanceHost s) := by
  rw [nextLine] at h
  simp only [hostStep, h]

/-- A step in the host's turn runs the host's next line. -/
theorem step_of_host_line {s : State} {line : HostLine} (hturn : (nextTurn s).1 = .host)
    (hline : nextLine s = some line) : step s = runLine line (advanceHost (nextTurn s).2) := by
  rw [step, hturn]
  exact hostStep_of_nextLine ((nextLine_nextTurn s).trans hline)

/-- Settles O12: the host's line is a word write to CMD, and that is `exec` of the decoded command. -/
theorem stepRunsTheDecodedCommand : Obligations.StepRunsTheDecodedCommand := by
  unfold Obligations.StepRunsTheDecodedCommand
  rintro s i line o w hturn hline hwrite rfl hdecode
  calc step s = runLine line (advanceHost (nextTurn s).2) := step_of_host_line hturn hline
    _ = wordWrite 0x0000#13 w (advanceHost (nextTurn s).2) := runLine_write _ hwrite
    _ = commandWrite w (advanceHost (nextTurn s).2) := wordWrite_cmd _ _
    _ = exec i (advanceHost (nextTurn s).2) := commandWrite_of_decode hdecode _

end Sys2Proof.Machine
end

section
/-! PROOFS, 30_encoding. `poll` (R90): its three lines, each a step in a turn of the host. -/
namespace Sys2Proof.Machine

theorem run_succ {s t : State} (h : step s = .next t) (k : Nat) : core.run (k + 1) s = core.run k t := by
  have hcore : core.step s = .next t := h
  simp only [Host.Core.run, hcore]

/-- The state in which the host runs a line in a scheduled turn: `sched` is left of the schedule, and the host stands at
the line after. -/
def hostTurn (sched : List Turn) (s : State) : State := advanceHost { s with sched := sched }

/-- A step in a scheduled turn of the host runs the host's next line. -/
theorem step_of_scheduled_line {s : State} {sched : List Turn} {line : HostLine} (hsched : s.sched = .host :: sched)
    (hline : nextLine s = some line) : step s = runLine line (hostTurn sched s) := by
  have hnext : nextTurn s = (.host, { s with sched := sched }) := by simp only [nextTurn, hsched]
  rw [step_of_host_line (by rw [hnext]) hline, hnext, hostTurn]

/-- A label is found at its first line. -/
theorem labelIndex_of_first {code before rest : List HostLine} {l : Nat} (hcode : code = before ++ .label l :: rest)
    (hfresh : .label l ∉ before) : labelIndex code l = some before.length := by
  have hbefore : before.findIdx? (· == .label l) = none := by
    rw [List.findIdx?_eq_none_iff]
    intro line hline
    have hne : line ≠ .label l := fun heq => hfresh (heq ▸ hline)
    simpa using hne
  simp [labelIndex, hcode, List.findIdx?_append, hbefore, List.findIdx?_cons]

theorem jumpTo_of_label {l i : Nat} {s : State} (h : labelIndex s.host.code l = some i) :
    jumpTo l s = .next { s with host := { s.host with pc := i } } := by simp only [jumpTo, h]

theorem tempValue_cons_same (t : Nat) (w : Word) (temps : List (Nat × Word)) : tempValue ((t, w) :: temps) t = w :=
  if_pos rfl

/-- `rd STATUS -> t` records the STATUS word and puts it into the temporary. -/
theorem readInto_status (t : Nat) (s : State) :
    readInto .status t s
      = { s with
          hostReads := s.hostReads ++ [⟨.b32, 0x0004#13, (statusWord s).zeroExtend 64⟩]
          host := { s.host with temps := (t, statusWord s) :: s.host.temps } } := by
  have hvalue : accessValue .b32 (offsetOf .status) s = (wordRead (offsetOf .status) s).zeroExtend 64 :=
    if_pos ((acts_iff _ _).mpr ⟨rfl, offsetOf_aligned .status⟩)
  rw [readInto, hvalue, wordRead_offsetOf]
  rfl

/-- `bit1` of a temporary that holds STATUS jumps while BUSY is 1 (10_state R25). -/
theorem runLine_bit1_of_status {s u : State} {t l i : Nat} (htemp : tempValue s.host.temps t = statusWord u)
    (hlabel : labelIndex s.host.code l = some i) :
    runLine (.bit1 t 0 l) s = .next { s with host := { s.host with pc := if u.busy then i else s.host.pc } } := by
  have htest : runLine (.bit1 t 0 l) s = if u.busy then jumpTo l s else .next s := by
    rw [runLine, htemp, getLsbD_statusWord_busy]
  rw [htest, jumpTo_of_label hlabel]
  cases u.busy <;> rfl

/-- Settles O40: a label, a read of STATUS and a `bit1` of what was read, one step each. -/
theorem pollWaitsForTheCommand : Obligations.PollWaitsForTheCommand := by
  unfold Obligations.PollWaitsForTheCommand
  intro s before rest l sched hcode hfresh hpc hsched
  have hline (k : Nat) : s.host.code[s.host.pc + k]? = (poll l ++ rest)[k]? := by
    rw [hcode, hpc, List.append_assoc, List.getElem?_append_right (by omega), Nat.add_sub_cancel_left]
  have hlabel : labelIndex s.host.code l = some s.host.pc :=
    hpc ▸ labelIndex_of_first (by rw [hcode, List.append_assoc]; rfl) hfresh
  have hread : wordRead 0x0004#13 s = statusWord s := wordRead_offsetOf .status s
  let s₁ := hostTurn (.host :: .host :: sched) s
  let s₂ := readInto .status l (hostTurn (.host :: sched) s₁)
  have hstep₁ : step s = .next s₁ := step_of_scheduled_line hsched (hline 0)
  have hstep₂ : step s₁ = .next s₂ := step_of_scheduled_line (s := s₁) rfl (hline 1)
  have htemp : tempValue s₂.host.temps l = statusWord s := tempValue_cons_same _ _ _
  have hstep₃ := (step_of_scheduled_line (s := s₂) rfl (hline 2)).trans (runLine_bit1_of_status htemp hlabel)
  rw [run_succ hstep₁, run_succ hstep₂, run_succ hstep₃, ← hpc, hread, show s₂ = _ from readInto_status _ _]
  simp only [Host.Core.run, hostTurn, advanceHost, s₁]
  rfl

end Sys2Proof.Machine
end

section
/-! PROOFS, 30_encoding. The colour bit (R82): the events of INIT, DRAW_TEXT and FLUSH commute with any change of the
latched bit, which they neither read nor write. -/
namespace Sys2Proof.Machine

/-- The state with another latched colour bit. -/
def withColour (b : Bool) (s : State) : State := { s with latch := { s.latch with lcolor := b } }

section
variable (b : Bool) (s : State)

@[simp] theorem withColour_params : (withColour b s).params = s.params := rfl

@[simp] theorem withColour_engine : (withColour b s).engine = s.engine := rfl

@[simp] theorem withColour_llen : (withColour b s).latch.llen = s.latch.llen := rfl

@[simp] theorem withColour_ly0 : (withColour b s).latch.ly0 = s.latch.ly0 := rfl

@[simp] theorem withColour_answers : (withColour b s).answers = s.answers := rfl

@[simp] theorem textByte_withColour (k : Nat) : textByte (withColour b s) k = textByte s k := rfl

theorem plot_withColour (x y : Int) (k : Bool) : plot x y k (withColour b s) = withColour b (plot x y k s) := by
  rw [plot, plot, apply_ite (withColour b)]
  rfl

/-- DRAW_TEXT plots its set bits on, whatever the latched bit (R82). -/
theorem textStep_withColour (k : Nat) (cx : Int) (col row : Nat) :
    textStep k cx col row (withColour b s) = withColour b (textStep k cx col row s) := by
  simp only [textStep, plot_withColour, withColour_llen, withColour_ly0, withColour_params, textByte_withColour]
  by_cases hk : k < s.latch.llen.toNat
  · simp only [hk, if_true]
    cases glyphOf s.params (textByte s k) with
    | none => rfl
    | some g =>
      rw [apply_ite (withColour b)]
      rfl
  · simp only [hk, if_false]
    rfl

theorem initSendStep_withColour (n : Nat) :
    initSendStep n (withColour b s) = withColour b (initSendStep n s) := by
  rw [initSendStep, initSendStep, withColour_params]
  cases s.params.initSeq[n]? <;> rfl

theorem initClearStep_withColour (i : Nat) :
    initClearStep i (withColour b s) = withColour b (initClearStep i s) := by
  rw [initClearStep, initClearStep, initSendStep_withColour, apply_ite (withColour b)]
  rfl

theorem flushSendStep_withColour (p j : Nat) :
    flushSendStep p j (withColour b s) = withColour b (flushSendStep p j s) := by
  rw [flushSendStep, flushSendStep, flushBytes_congr s (withColour b s) rfl rfl rfl, apply_ite (withColour b)]
  rfl

/-- A step of the engine in a command that ignores C commutes with a change of the latched bit. -/
theorem engineStep_withColour
    (hop : engineOp s.engine = some .init ∨ engineOp s.engine = some .drawText ∨ engineOp s.engine = some .flush) :
    engineStep (withColour b s) = withColour b (engineStep s) := by
  rw [engineStep, engineStep, withColour_engine]
  cases he : s.engine with
  | fill | pixel | line => simp [he, engineOp] at hop
  | text k cx col row => exact textStep_withColour b s k cx col row
  | initClear i => exact initClearStep_withColour b s i
  | initSend n => exact initSendStep_withColour b s n
  | flushSend p j => exact flushSendStep_withColour b s p j
  | _ => rfl

/-- So does an answer of the Bus Transport, in any command. -/
theorem busStep_withColour : busStep (withColour b s) = withColour b (busStep s) := by
  rw [busStep, busStep, withColour_answers, apply_ite (withColour b)]
  cases s.answers <;> rfl

end

/-- Settles O33: the next event, an answer or a step of the engine, commutes with a change of the latched bit. -/
theorem colourBitIsIgnored : Obligations.ColourBitIsIgnored := by
  unfold Obligations.ColourBitIsIgnored
  intro s b hop
  calc advance (withColour b s) = if waiting s then withColour b (busStep s) else withColour b (engineStep s) := by
        rw [advance, busStep_withColour, engineStep_withColour b s hop]
        rfl
    _ = withColour b (advance s) := by rw [advance, apply_ite (withColour b)]

end Sys2Proof.Machine
end

section
/-! PROOFS, 30_encoding. What each command leaves alone (R94): the drawing commands the bus, FLUSH the framebuffer, and
INIT all but the clearing of bytes. -/
namespace Sys2Proof.Machine

/-- Only INIT and FLUSH wait for an answer. -/
theorem engineOp_of_waiting {s : State} (h : waiting s = true) :
    engineOp s.engine = some .init ∨ engineOp s.engine = some .flush := by
  obtain ⟨n, he⟩ | ⟨p, j, he⟩ := (waiting_iff s).mp h <;> rw [he]
  · exact .inl rfl
  · exact .inr rfl

/-- An engine that runs neither INIT nor FLUSH keeps the bus log. -/
theorem engineStep_busLog {s : State} (hinit : engineOp s.engine ≠ some .init)
    (hflush : engineOp s.engine ≠ some .flush) : (engineStep s).busLog = s.busLog := by
  unfold engineStep
  cases he : s.engine with
  | fill i => simp only [fillStep]; split <;> rfl
  | pixel => simp [pixelStep]
  | line r => simp [lineStep]
  | text k cx col row =>
    simp only [textStep]
    split
    · split
      · rfl
      · split <;> simp
    · rfl
  | initClear | initSend | initAbort => exact absurd (he ▸ rfl) hinit
  | flushSend | flushAbort => exact absurd (he ▸ rfl) hflush
  | _ => rfl

/-- The next event of a command that is neither INIT nor FLUSH keeps the bus log. -/
theorem advance_busLog {s : State} (hinit : engineOp s.engine ≠ some .init)
    (hflush : engineOp s.engine ≠ some .flush) : (advance s).busLog = s.busLog := by
  cases hwait : waiting s with
  | true => exact absurd (engineOp_of_waiting hwait) (not_or.mpr ⟨hinit, hflush⟩)
  | false => rw [advance_running hwait, engineStep_busLog hinit hflush]

theorem engineStep_fb_of_flush {s : State} (h : engineOp s.engine = some .flush) : (engineStep s).fb = s.fb := by
  unfold engineStep
  cases he : s.engine with
  | flushSend p j => simp only [flushSendStep]; split <;> rfl
  | flushWait | flushAbort => rfl
  | _ => simp [he, engineOp] at h

theorem initSendStep_fb (n : Nat) (s : State) : (initSendStep n s).fb = s.fb := by
  unfold initSendStep
  split <;> rfl

/-- INIT's steps keep FB, but for the clear of one byte. -/
theorem engineStep_fb_of_init {s : State} (h : engineOp s.engine = some .init) :
    (engineStep s).fb = s.fb ∨ ∃ i, (engineStep s).fb = s.fb.write i 0x00#8 := by
  unfold engineStep
  cases he : s.engine with
  | initClear i =>
    simp only [initClearStep]
    split
    · exact .inr ⟨i, rfl⟩
    · exact .inl (initSendStep_fb 0 s)
  | initSend n => exact .inl (initSendStep_fb n s)
  | initWait | initAbort => exact .inl rfl
  | _ => simp [he, engineOp] at h

/-- Settles O35: an answer of the Bus Transport keeps FB, and only INIT and FLUSH await one; a step of the engine
issues a transaction in these two alone, keeps FB in FLUSH, and clears a byte or keeps FB in INIT. -/
theorem drawingNeverTouchesTheBus : Obligations.DrawingNeverTouchesTheBus := by
  unfold Obligations.DrawingNeverTouchesTheBus
  intro s
  refine ⟨fun hop => ?_, fun hop => ?_, fun hop i => ?_⟩
  · obtain hop | hop | hop | hop := hop <;> exact advance_busLog (by simp [hop]) (by simp [hop])
  · unfold advance
    split
    · exact busStep_fb s
    · exact engineStep_fb_of_flush hop
  · unfold advance
    split
    · exact .inl (fbByte_congr (busStep_fb s) (busStep_epoch s) i)
    · obtain hfb | ⟨j, hfb⟩ := engineStep_fb_of_init hop
      · exact .inl (fbByte_congr hfb (engineStep_epoch s) i)
      · rw [fbByte_congr (s := setFbByte j 0x00#8 s) hfb (engineStep_epoch s), fbByte_setFbByte]
        by_cases hij : i = j
        · exact .inr (if_pos hij)
        · exact .inl (if_neg hij)

end Sys2Proof.Machine
end

section
/-! PROOFS, 30_encoding. A busy block (R92, R97): what each agent's move makes of it, but for DROP and the host's own
part. -/
namespace Sys2Proof.Machine

/-- While BUSY is 1 a word write reaches nothing of the block but DROP. -/
theorem engineView_wordWrite {o : Offset} {v : Word} {s t : State} (hb : s.busy = true)
    (h : wordWrite o v s = .next t) : engineView t = engineView s := by
  obtain ⟨-, e⟩ | ⟨-, e⟩ | ⟨-, e⟩ | ⟨hidle, -⟩ := wordWrite_cases o v s
  · rw [e, commandWrite_busy v hb] at h; cases h; rfl
  · rw [e, statusWrite_eq] at h; cases h; rfl
  · rw [e] at h; cases h; rfl
  · exact absurd hidle (by simp [hb])

/-- Nor does any other move of the host. -/
theorem engineView_hostStep {s t : State} (hb : s.busy = true) (h : hostStep s = .next t) :
    engineView t = engineView s := by
  obtain ⟨_, _, _, -, -, hwrite⟩ | ⟨_, _, rfl⟩ := hostStep_cases h
  · exact engineView_wordWrite (s := advanceHost s) hb hwrite
  · rfl

/-- The engine's step is the command's next event, unless the command waits for an answer. -/
theorem engineStep_eq_self_or_advance (s : State) : engineStep s = s ∨ engineStep s = advance s := by
  cases hwait : waiting s with
  | true => exact .inl (engineStep_waiting hwait)
  | false => exact .inr (advance_running hwait).symm

/-- The Bus Transport's move is the command's next event, if the command waits for it. -/
theorem busStep_eq_self_or_advance (s : State) : busStep s = s ∨ busStep s = advance s := by
  cases hwait : waiting s with
  | true => exact .inr (advance_waiting hwait).symm
  | false => exact .inl (by simp [busStep, hwait])

/-- Where `u` looks like `s`, `u` and its next event look like `s` and its next event. -/
theorem engineView_of_self_or_advance {s u t : State} (hview : engineView u = engineView s)
    (h : t = u ∨ t = advance u) : engineView t = engineView s ∨ engineView t = engineView (advance s) := by
  obtain rfl | rfl := h
  · exact .inl hview
  · exact .inr (engineView_advanceN 1 hview)

/-- Settles O38, by agent: the host leaves the block's view, and the engine and the Bus Transport make the next event or
nothing. -/
theorem busyStepIsTheCommandsNextEvent : Obligations.BusyStepIsTheCommandsNextEvent := by
  unfold Obligations.BusyStepIsTheCommandsNextEvent
  intro s t hb hturn hstep
  obtain ⟨sched, -, hmove⟩ := step_cases hstep
  have hview : engineView { s with sched := sched } = engineView s := rfl
  obtain ⟨-, ht⟩ | ⟨-, rfl⟩ | ⟨-, rfl⟩ | ⟨hreset, -⟩ := hmove
  · have hkeep := engineView_hostStep (s := { s with sched := sched }) hb ht
    exact .inl (hkeep.trans hview)
  · exact engineView_of_self_or_advance hview (engineStep_eq_self_or_advance _)
  · exact engineView_of_self_or_advance hview (busStep_eq_self_or_advance _)
  · exact absurd hreset hturn

end Sys2Proof.Machine
end

section
/-! PROOFS, 40_framebuffer. A plot as one bit of one byte (R110, R114), what a finished command leaves of its plots, and
SET_PIXEL as the run of one plot (R113, R115). -/
namespace Sys2Proof.Machine

/-! The plot datapath. -/

/-- Settles O36: a plot on screen writes one byte, in which it writes one bit. -/
theorem plotWritesOneBit : Obligations.PlotWritesOneBit := by
  unfold Obligations.PlotWritesOneBit
  intro s x y c
  refine ⟨plot_clipped c, fun hon i j hj => ?_⟩
  rw [fbByte_plot]
  by_cases hi : i = pixelIndex s.params x y
  · simp [hon, hi, getLsbD_withBit _ _ _ _ hj]
  · simp [hi, Ne.symm hi]

/-! Runs that plot: what an accepted command's plots leave once it has finished. -/

/-- Completion after an accepted command's plots. -/
theorem complete_plotAll_accepted (c k : Bool) (e : Engine) (code : ResultCode) (points : List (Int × Int))
    (s : State) :
    complete code (plotAll k points (accepted c e s))
      = finished c code (plotAll k points (accepted c e s)).fb s.busLog s := by
  obtain ⟨fb, hfb⟩ := plotAll_frame k points (accepted c e s)
  rw [hfb]
  rfl

/-- The finished command leaves the framebuffer bytes of its plots. -/
theorem fbByte_finished_plotAll (c k : Bool) (e : Engine) (code : ResultCode) (points : List (Int × Int))
    (log : List Transaction) (s : State) (i : Nat) :
    fbByte (finished c code (plotAll k points (accepted c e s)).fb log s) i
      = fbByte (plotAll k points (accepted c e s)) i := by
  obtain ⟨fb, hfb⟩ := plotAll_frame k points (accepted c e s)
  rw [hfb]
  rfl

/-- The plotted pixels on screen read the plots' colour, and every other pixel reads as before the command. -/
theorem pixelOn_finished_plotAll (c k : Bool) (e : Engine) (code : ResultCode) (points : List (Int × Int))
    (log : List Transaction) {s : State} {x y : Int} (hon : onScreen s.params x y = true) :
    pixelOn (finished c code (plotAll k points (accepted c e s)).fb log s) x y
      = if (x, y) ∈ points then k else pixelOn s x y := by
  calc pixelOn (finished c code (plotAll k points (accepted c e s)).fb log s) x y
      = pixelOn (plotAll k points (accepted c e s)) x y := by
        rw [pixelOn, pixelOn, fbByte_finished_plotAll, plotAll_params]
        rfl
    _ = if (x, y) ∈ points then k else pixelOn s x y := plotAll_pixel k points (accepted c e s) hon

/-- A byte that holds none of the plotted points reads as before the command. -/
theorem fbByte_finished_plotAll_other (c k : Bool) (e : Engine) (code : ResultCode) {points : List (Int × Int)}
    (log : List Transaction) {s : State} {i : Nat} (hi : ¬ touches s.params points i) :
    fbByte (finished c code (plotAll k points (accepted c e s)).fb log s) i = fbByte s i :=
  (fbByte_finished_plotAll c k e code points log s i).trans (plotAll_byte k points (accepted c e s) hi)

/-! SET_PIXEL. -/

/-- The run of an accepted SET_PIXEL: its one plot, then completion. -/
theorem advanceN_setPixel (c : Bool) (s : State) :
    advanceN 2 (accepted c .pixel s)
      = finished c .ok (plotAll c [(coordInt s.x0, coordInt s.y0)] (accepted c .pixel s)).fb s.busLog s :=
  complete_plotAll_accepted c c .pixel .ok [(coordInt s.x0, coordInt s.y0)] s

/-- Settles O19: SET_PIXEL is the run of one plot. -/
theorem setPixelWritesOnePixel : Obligations.SetPixelWritesOnePixel := by
  unfold Obligations.SetPixelWritesOnePixel
  intro s c hb hready
  obtain ⟨-, haccept, -⟩ := readyAcceptsTheCommands s c hb hready
  refine ⟨_, _, haccept, advanceN_setPixel c s, fun x y hon => ?_, fun i hi => ?_⟩
  · simp only [pixelOn_finished_plotAll _ _ _ _ _ _ hon, List.mem_singleton, Prod.mk.injEq]
  · exact fbByte_finished_plotAll_other _ _ _ _ _ hi

end Sys2Proof.Machine
end

section
/-! PROOFS, 40_framebuffer. FILL as the run that writes the framebuffer byte by byte, and what the window then reads
(R111, R112). -/
namespace Sys2Proof.Machine

/-! Memories written from address 0 up. -/

/-- The memory with `v` at its first `n` addresses, written in rising order. -/
def Memory.writePrefix (v : Byte) : Nat → Memory → Memory
  | 0, m => m
  | n + 1, m => (Memory.writePrefix v n m).write n v

theorem Memory.lookup_writePrefix (v : Byte) (n : Nat) (m : Memory) (a : Nat) :
    (m.writePrefix v n).lookup a = if a < n then some v else m.lookup a := by
  induction n with
  | zero => simp [Memory.writePrefix]
  | succ n ih =>
    rw [Memory.writePrefix, Memory.lookup_write, ih]
    grind

/-- A finished command that wrote the first `n` bytes leaves them and no other byte changed. -/
theorem fbByte_finished_writePrefix (c : Bool) (code : ResultCode) (v : Byte) (n : Nat) (log : List Transaction)
    (s : State) (i : Nat) :
    fbByte (finished c code (s.fb.writePrefix v n) log s) i = if i < n then v else fbByte s i := by
  have hbyte : fbByte (finished c code (s.fb.writePrefix v n) log s) i
      = ((s.fb.writePrefix v n).lookup i).getD (Config.fbAtReset s.epoch i) := rfl
  rw [hbyte, Memory.lookup_writePrefix]
  split <;> rfl

/-! FILL. -/

theorem advance_fill {s : State} {i : Nat} (he : s.engine = .fill i) : advance s = fillStep i s := by
  rw [advance_running (by simp [waiting, he]), engineStep, he]

/-- The last event of a run. -/
theorem advanceN_succ_last (n : Nat) (s : State) : advanceN (n + 1) s = advance (advanceN n s) :=
  advanceN_add n 1 s

/-- FILL's first `n` events write the first `n` bytes. -/
theorem advanceN_fill {s : State} (he : s.engine = .fill 0) {n : Nat} (hn : n ≤ s.params.fbBytes) :
    advanceN n s = { s with fb := s.fb.writePrefix (fillByte s.latch.lcolor) n, engine := .fill n } := by
  induction n with
  | zero => rw [← he]; rfl
  | succ n ih =>
    rw [advanceN_succ_last, ih (by omega), advance_fill rfl]
    exact if_pos hn

/-- The run of an accepted FILL: its writes, then completion. -/
theorem advanceN_fill_accepted (c : Bool) (s : State) :
    advanceN (s.params.fbBytes + 1) (accepted c (.fill 0) s)
      = finished c .ok (s.fb.writePrefix (fillByte c) s.params.fbBytes) s.busLog s := by
  have hwrites := advanceN_fill (s := accepted c (.fill 0) s) rfl (Nat.le_refl s.params.fbBytes)
  rw [advanceN_succ_last, hwrites, advance_fill rfl]
  exact if_neg (Nat.lt_irrefl _)

/-- A word whose four lanes are one byte. -/
theorem eq_wordOfLanes_const {w : Word} {b : Byte} (h : ∀ i < 4, byteOfWord w i = b) : w = wordOfLanes fun _ => b :=
  (wordOfLanes_byteOfWord w).symm.trans (wordOfLanes_congr h)

theorem wordOfLanes_fillByte (c : Bool) : wordOfLanes (fun _ => fillByte c) = if c then 0xFFFFFFFF#32 else 0#32 := by
  cases c <;> rfl

/-- Settles O18: the run of FILL writes the first FB_BYTES bytes, and a window word is read from its lanes. -/
theorem fillFillsTheFramebuffer : Obligations.FillFillsTheFramebuffer := by
  unfold Obligations.FillFillsTheFramebuffer
  intro s c hb hready
  obtain ⟨haccept, -⟩ := readyAcceptsTheCommands s c hb hready
  have hbyte := fbByte_finished_writePrefix c .ok (fillByte c) s.params.fbBytes s.busLog s
  have hlane : ∀ k < 256, ∀ i < 4, 4 * k + i < s.params.fbBytes →
      byteOfWord (wordRead (BitVec.ofNat 13 (0x1000 + 4 * k))
        (finished c .ok (s.fb.writePrefix (fillByte c) s.params.fbBytes) s.busLog s)) i = fillByte c := by
    intro k hk i hi hcovered
    rw [byteOfWord, framebufferWindowLanes _ k i hk hi, hbyte, if_pos hcovered]
    exact if_pos hcovered
  refine ⟨_, _, haccept, advanceN_fill_accepted c s, fun i hi => ?_, fun i hi => ?_, hlane, fun k hk hcovered => ?_⟩
  · rw [hbyte, if_pos hi, fillByte]
  · rw [hbyte, if_neg (by omega)]
  · have hlanes := eq_wordOfLanes_const fun i hi => hlane k hk i hi (by omega)
    rw [hlanes, wordOfLanes_fillByte]

end Sys2Proof.Machine
end

section
/-! PROOFS, 41_line. The moves of DRAW_LINE's loop: the range in which the error term stays (R135), and DRAW_LINE's path
as the points where the line stands after 0, 1, ... moves (R134). -/
namespace Sys2Proof.Machine

/-- The last of a row of moves. -/
theorem lineAfter_succ_last (n : Nat) (r : LineRegs) : lineAfter (n + 1) r = lineMove (lineAfter n r) := by
  induction n generalizing r with
  | zero => rfl
  | succ n ih => exact ih (lineMove r)

/-! The error term. -/

/-- The registers hold a line's deltas, and their error term is in its range (R135). -/
def errorInRange (dx dy : Nat) (r : LineRegs) : Prop :=
  r.dx = dx ∧ r.dy = dy ∧ (0 < dy → -2 * (dy : Int) < r.e ∧ r.e ≤ 2 * (dx : Int)) ∧ (dy = 0 → r.e = dx)

theorem errorInRange_lineStart (x0 y0 x1 y1 : Int) :
    errorInRange (x1 - x0).natAbs (y1 - y0).natAbs (lineStart x0 y0 x1 y1) := by
  refine ⟨rfl, rfl, ?_, ?_⟩ <;> simp only [lineStart] <;> omega

/-- An x-move takes `2 * dy` off a positive `e`; a y-move adds `2 * dx` to one that is not positive. -/
theorem errorInRange_lineMove {dx dy : Nat} {r : LineRegs} (h : errorInRange dx dy r) :
    errorInRange dx dy (lineMove r) := by
  obtain ⟨hdx, hdy, hrange, hflat⟩ := h
  unfold lineMove
  split
  · refine ⟨hdx, hdy, ?_, ?_⟩ <;> dsimp only <;> omega
  · refine ⟨hdx, hdy, ?_, ?_⟩ <;> dsimp only <;> omega

theorem errorInRange_lineAfter {dx dy : Nat} {r : LineRegs} (h : errorInRange dx dy r) (n : Nat) :
    errorInRange dx dy (lineAfter n r) := by
  induction n with
  | zero => exact h
  | succ n ih => rw [lineAfter_succ_last]; exact errorInRange_lineMove ih

/-- Settles O22: the range holds at the start, and every move keeps it. -/
theorem lineErrorTermStaysInRange : Obligations.LineErrorTermStaysInRange := by
  unfold Obligations.LineErrorTermStaysInRange
  intro x0 y0 x1 y1 n _
  obtain ⟨-, -, hrange, hflat⟩ := errorInRange_lineAfter (errorInRange_lineStart x0 y0 x1 y1) n
  exact ⟨hrange, hflat⟩

/-! Moves along one axis. -/

/-- A unit move towards `b` is one pixel long. -/
theorem natAbs_unit_move {a b : Int} {i : Nat} (h : i + 1 ≤ (b - a).natAbs) :
    (a + i * (b - a).sign - (a + (i + 1 : Nat) * (b - a).sign)).natAbs = 1 := by
  have hstep : a + i * (b - a).sign - (a + (i + 1 : Nat) * (b - a).sign) = -(b - a).sign := by push_cast; ring
  rw [hstep, Int.natAbs_neg, Int.natAbs_sign_of_ne_zero (by omega)]

/-- Unit moves from `a` that do not pass `b` stay between the two. -/
theorem unit_moves_between {a b : Int} {i : Nat} (h : i ≤ (b - a).natAbs) :
    min a b ≤ a + i * (b - a).sign ∧ a + i * (b - a).sign ≤ max a b := by
  obtain hlt | heq | hgt := lt_trichotomy (b - a) 0
  · rw [Int.sign_eq_neg_one_of_neg hlt]; omega
  · rw [heq, Int.sign_zero]; omega
  · rw [Int.sign_eq_one_of_pos hgt]; omega

/-- Two points one pixel apart along x. -/
def xStep (p q : Int × Int) : Prop := (p.1 - q.1).natAbs = 1 ∧ p.2 = q.2

/-- Two points one pixel apart along y. -/
def yStep (p q : Int × Int) : Prop := p.1 = q.1 ∧ (p.2 - q.2).natAbs = 1

section
variable {x0 y0 x1 y1 : Int} {i j : Nat} {r r' : LineRegs}

theorem lineAt_xMove (h : lineAt x0 y0 x1 y1 i j r) (h' : lineAt x0 y0 x1 y1 (i + 1) j r') :
    xStep (r.x, r.y) (r'.x, r'.y) := by
  obtain ⟨-, -, -, -, hsx, hsy, hx, hy, -⟩ := h
  obtain ⟨hi, -, -, -, hsx', hsy', hx', hy', -⟩ := h'
  rw [hx, hy, hx', hy', hsx, hsy, hsx', hsy']
  exact ⟨natAbs_unit_move hi, rfl⟩

theorem lineAt_yMove (h : lineAt x0 y0 x1 y1 i j r) (h' : lineAt x0 y0 x1 y1 i (j + 1) r') :
    yStep (r.x, r.y) (r'.x, r'.y) := by
  obtain ⟨-, -, -, -, hsx, hsy, hx, hy, -⟩ := h
  obtain ⟨-, hj, -, -, hsx', hsy', hx', hy', -⟩ := h'
  rw [hx, hy, hx', hy', hsx, hsy, hsx', hsy']
  exact ⟨rfl, natAbs_unit_move hj⟩

/-- The line stays in the bounding box of its endpoints. -/
theorem lineAt_between (h : lineAt x0 y0 x1 y1 i j r) :
    min x0 x1 ≤ r.x ∧ r.x ≤ max x0 x1 ∧ min y0 y1 ≤ r.y ∧ r.y ≤ max y0 y1 := by
  obtain ⟨hi, hj, -, -, hsx, hsy, hx, hy, -⟩ := h
  obtain ⟨hxmin, hxmax⟩ := unit_moves_between hi
  obtain ⟨hymin, hymax⟩ := unit_moves_between hj
  rw [hx, hy, hsx, hsy]
  exact ⟨hxmin, hxmax, hymin, hymax⟩

end

/-! The points of the path. -/

/-- Point `n` of the path: where the line stands after `n` moves. -/
def linePoint (x0 y0 x1 y1 : Int) (n : Nat) : Int × Int :=
  ((lineAfter n (lineStart x0 y0 x1 y1)).x, (lineAfter n (lineStart x0 y0 x1 y1)).y)

/-- How often the first `n` steps of a sequence change its value. -/
def changes (f : Nat → Int) (n : Nat) : Nat := (List.range n).countP fun k => f k != f (k + 1)

theorem changes_succ (f : Nat → Int) (n : Nat) :
    changes f (n + 1) = changes f n + if f n = f (n + 1) then 0 else 1 := by
  rw [changes, List.range_succ, List.countP_append, List.countP_singleton, ← changes]
  simp

/-- How many of the first `n` moves change x. -/
def xMoves (x0 y0 x1 y1 : Int) (n : Nat) : Nat := changes (fun k => (linePoint x0 y0 x1 y1 k).1) n

/-- How many of the first `n` moves change y. -/
def yMoves (x0 y0 x1 y1 : Int) (n : Nat) : Nat := changes (fun k => (linePoint x0 y0 x1 y1 k).2) n

section
variable {x0 y0 x1 y1 : Int} {n : Nat}

theorem moves_succ_of_xStep (h : xStep (linePoint x0 y0 x1 y1 n) (linePoint x0 y0 x1 y1 (n + 1))) :
    xMoves x0 y0 x1 y1 (n + 1) = xMoves x0 y0 x1 y1 n + 1 ∧ yMoves x0 y0 x1 y1 (n + 1) = yMoves x0 y0 x1 y1 n := by
  obtain ⟨hx, hy⟩ := h
  rw [xMoves, yMoves, changes_succ, changes_succ, if_neg (by omega), if_pos hy]
  exact ⟨rfl, rfl⟩

theorem moves_succ_of_yStep (h : yStep (linePoint x0 y0 x1 y1 n) (linePoint x0 y0 x1 y1 (n + 1))) :
    xMoves x0 y0 x1 y1 (n + 1) = xMoves x0 y0 x1 y1 n ∧ yMoves x0 y0 x1 y1 (n + 1) = yMoves x0 y0 x1 y1 n + 1 := by
  obtain ⟨hx, hy⟩ := h
  rw [xMoves, yMoves, changes_succ, changes_succ, if_pos hx, if_neg (by omega)]
  exact ⟨rfl, rfl⟩

/-- One move of the loop, before the end, from a line that stands after `i` x-moves and `j` y-moves. -/
theorem linePoint_step_of_lineAt {i j : Nat} (h : lineAt x0 y0 x1 y1 i j (lineAfter n (lineStart x0 y0 x1 y1)))
    (hend : i + j < lineMoves x0 y0 x1 y1) :
    (lineAt x0 y0 x1 y1 (i + 1) j (lineAfter (n + 1) (lineStart x0 y0 x1 y1))
        ∧ xStep (linePoint x0 y0 x1 y1 n) (linePoint x0 y0 x1 y1 (n + 1)))
      ∨ (lineAt x0 y0 x1 y1 i (j + 1) (lineAfter (n + 1) (lineStart x0 y0 x1 y1))
        ∧ yStep (linePoint x0 y0 x1 y1 n) (linePoint x0 y0 x1 y1 (n + 1))) := by
  have hmove := lineAt_move h (by rw [lineMoves] at hend; omega)
  rw [← lineAfter_succ_last] at hmove
  obtain ⟨-, hx, -⟩ | ⟨-, hy, -⟩ := hmove
  · exact .inl ⟨hx, lineAt_xMove h hx⟩
  · exact .inr ⟨hy, lineAt_yMove h hy⟩

/-- After `n` moves the line stands where its x-moves and its y-moves among them take it. -/
theorem lineAt_lineAfter (hn : n ≤ lineMoves x0 y0 x1 y1) :
    xMoves x0 y0 x1 y1 n + yMoves x0 y0 x1 y1 n = n
      ∧ lineAt x0 y0 x1 y1 (xMoves x0 y0 x1 y1 n) (yMoves x0 y0 x1 y1 n) (lineAfter n (lineStart x0 y0 x1 y1)) := by
  induction n with
  | zero => exact ⟨rfl, lineAt_start x0 y0 x1 y1⟩
  | succ n ih =>
    obtain ⟨hsum, hat⟩ := ih (by omega)
    obtain ⟨hat', hstep⟩ | ⟨hat', hstep⟩ := linePoint_step_of_lineAt hat (by omega)
    · obtain ⟨hxs, hys⟩ := moves_succ_of_xStep hstep
      rw [hxs, hys]
      exact ⟨by omega, hat'⟩
    · obtain ⟨hxs, hys⟩ := moves_succ_of_yStep hstep
      rw [hxs, hys]
      exact ⟨by omega, hat'⟩

/-- Every move before the end is one pixel along exactly one axis. -/
theorem linePoint_unit_move (hn : n < lineMoves x0 y0 x1 y1) :
    ((linePoint x0 y0 x1 y1 n).1 - (linePoint x0 y0 x1 y1 (n + 1)).1).natAbs
      + ((linePoint x0 y0 x1 y1 n).2 - (linePoint x0 y0 x1 y1 (n + 1)).2).natAbs = 1 := by
  obtain ⟨hsum, hat⟩ := lineAt_lineAfter hn.le
  obtain ⟨-, hx, hy⟩ | ⟨-, hx, hy⟩ := linePoint_step_of_lineAt hat (by omega)
  · omega
  · omega

/-- Each move comes one pixel nearer to the second endpoint. -/
theorem linePoint_dist (hn : n ≤ lineMoves x0 y0 x1 y1) :
    (x1 - (linePoint x0 y0 x1 y1 n).1).natAbs + (y1 - (linePoint x0 y0 x1 y1 n).2).natAbs
      = lineMoves x0 y0 x1 y1 - n := by
  obtain ⟨hsum, hat⟩ := lineAt_lineAfter hn
  obtain ⟨hx, hy⟩ := lineAt_dist hat
  obtain ⟨hi, hj, -⟩ := hat
  rw [linePoint, hx, hy, lineMoves]
  omega

/-- The line stands at the second endpoint after its last move, and not before. -/
theorem lineAfter_end_iff (hn : n ≤ lineMoves x0 y0 x1 y1) :
    ((lineAfter n (lineStart x0 y0 x1 y1)).x = x1 ∧ (lineAfter n (lineStart x0 y0 x1 y1)).y = y1)
      ↔ n = lineMoves x0 y0 x1 y1 := by
  have hdist := linePoint_dist hn
  rw [linePoint] at hdist
  omega

theorem linePoint_lineMoves : linePoint x0 y0 x1 y1 (lineMoves x0 y0 x1 y1) = (x1, y1) :=
  Prod.ext_iff.mpr ((lineAfter_end_iff le_rfl).mpr rfl)

/-- Points after different numbers of moves differ in their distance from the second endpoint. -/
theorem linePoint_injOn {m : Nat} (hm : m ≤ lineMoves x0 y0 x1 y1) (hn : n ≤ lineMoves x0 y0 x1 y1)
    (h : linePoint x0 y0 x1 y1 m = linePoint x0 y0 x1 y1 n) : m = n := by
  have hm' := linePoint_dist hm
  have hn' := linePoint_dist hn
  rw [h] at hm'
  omega

/-- The line makes `dx` x-moves and `dy` y-moves in all. -/
theorem moves_lineMoves :
    xMoves x0 y0 x1 y1 (lineMoves x0 y0 x1 y1) = (x1 - x0).natAbs
      ∧ yMoves x0 y0 x1 y1 (lineMoves x0 y0 x1 y1) = (y1 - y0).natAbs := by
  obtain ⟨-, hat⟩ := lineAt_lineAfter (le_refl (lineMoves x0 y0 x1 y1))
  exact (lineAt_end hat).mp ((lineAfter_end_iff le_rfl).mpr rfl)

end

/-! The path as a list. -/

/-- A loop that first meets its endpoint after `k` moves plots `k + 1` points, one after each number of moves. -/
theorem lineLoop_eq_map {x1 y1 : Int} {k : Nat} {r : LineRegs}
    (h : ∀ n ≤ k, ((lineAfter n r).x = x1 ∧ (lineAfter n r).y = y1) ↔ n = k) :
    lineLoop x1 y1 (k + 1) r = (List.range (k + 1)).map fun n => ((lineAfter n r).x, (lineAfter n r).y) := by
  induction k generalizing r with
  | zero =>
    have hend : r.x = x1 ∧ r.y = y1 := (h 0 le_rfl).mpr rfl
    rw [lineLoop, if_pos hend]
    rfl
  | succ k ih =>
    have hhead : ¬ (r.x = x1 ∧ r.y = y1) := fun hend => by simpa using (h 0 (by omega)).mp hend
    have htail := ih (r := lineMove r) fun n hn => (h (n + 1) (by omega)).trans Nat.succ_inj
    rw [lineLoop, if_neg hhead, htail, List.range_succ_eq_map (n := k + 1), List.map_cons, List.map_map]
    rfl

theorem linePath_eq_map (x0 y0 x1 y1 : Int) :
    linePath x0 y0 x1 y1 = (List.range (lineMoves x0 y0 x1 y1 + 1)).map (linePoint x0 y0 x1 y1) :=
  lineLoop_eq_map fun _ hn => lineAfter_end_iff hn

theorem mem_linePath {x0 y0 x1 y1 : Int} {q : Int × Int} :
    q ∈ linePath x0 y0 x1 y1 ↔ ∃ n ≤ lineMoves x0 y0 x1 y1, linePoint x0 y0 x1 y1 n = q := by
  simp [linePath_eq_map]

theorem linePath_isChain (x0 y0 x1 y1 : Int) :
    (linePath x0 y0 x1 y1).IsChain fun a b => (a.1 - b.1).natAbs + (a.2 - b.2).natAbs = 1 := by
  rw [linePath_eq_map, List.isChain_map, List.isChain_range_succ]
  exact fun n hn => linePoint_unit_move hn

theorem linePath_nodup (x0 y0 x1 y1 : Int) : (linePath x0 y0 x1 y1).Nodup := by
  rw [linePath_eq_map]
  refine List.Nodup.map_on (fun m hm n hn h => linePoint_injOn ?_ ?_ h) List.nodup_range
  · exact Nat.lt_succ_iff.mp (List.mem_range.mp hm)
  · exact Nat.lt_succ_iff.mp (List.mem_range.mp hn)

/-- The pairs of neighbours in a list given by a sequence. -/
theorem zip_tail_map_range {α : Type} (f : Nat → α) (n : Nat) :
    ((List.range (n + 1)).map f).zip ((List.range (n + 1)).map f).tail
      = (List.range n).map fun k => (f k, f (k + 1)) := by
  apply List.ext_getElem
  · simp
  · simp

theorem linePath_moves (x0 y0 x1 y1 : Int) :
    (linePath x0 y0 x1 y1).zip (linePath x0 y0 x1 y1).tail
      = (List.range (lineMoves x0 y0 x1 y1)).map fun k => (linePoint x0 y0 x1 y1 k, linePoint x0 y0 x1 y1 (k + 1)) := by
  rw [linePath_eq_map, zip_tail_map_range]

/-- Settles O21: point `n` of the path is where the line stands after `n` moves, each of which comes one pixel nearer to
the second endpoint. -/
theorem linePathIsAConnectedChain : Obligations.LinePathIsAConnectedChain := by
  unfold Obligations.LinePathIsAConnectedChain
  intro x0 y0 x1 y1
  obtain ⟨hxMoves, hyMoves⟩ := moves_lineMoves (x0 := x0) (y0 := y0) (x1 := x1) (y1 := y1)
  refine ⟨?length, ?head, ?last, linePath_isChain x0 y0 x1 y1, ?xMoves, ?yMoves, linePath_nodup x0 y0 x1 y1, ?box⟩
  case length => rw [linePath_eq_map, List.length_map, List.length_range, lineMoves]
  case head => rw [linePath_eq_map, List.range_succ_eq_map]; rfl
  case last =>
    rw [linePath_eq_map, List.range_succ, List.map_append, List.map_singleton, List.getLast?_concat,
      linePoint_lineMoves]
  case xMoves => rw [linePath_moves, List.countP_map]; exact hxMoves
  case yMoves => rw [linePath_moves, List.countP_map]; exact hyMoves
  case box =>
    intro q hq
    obtain ⟨n, hn, rfl⟩ := mem_linePath.mp hq
    obtain ⟨-, hat⟩ := lineAt_lineAfter hn
    exact lineAt_between hat

end Sys2Proof.Machine
end

section
/-! PROOFS, 41_line. DRAW_LINE as the run that plots its path, one point an iteration (R131, R137, R138). -/
namespace Sys2Proof.Machine

/-- The engine's progress after `m` iterations: before the next one, or after the last. -/
def lineProgress (x0 y0 x1 y1 : Int) (m : Nat) : Engine :=
  if m ≤ lineMoves x0 y0 x1 y1 then .line (lineAfter m (lineStart x0 y0 x1 y1)) else .lineEnd

theorem advance_line {s : State} {r : LineRegs} (he : s.engine = .line r) : advance s = lineStep r s := by
  rw [advance_running (by simp [waiting, he]), engineStep, he]

theorem advance_lineEnd {s : State} (he : s.engine = .lineEnd) : advance s = complete .ok s := by
  rw [advance_running (by simp [waiting, he]), engineStep, he]

section
variable {x0 y0 x1 y1 : Int} {m : Nat}

theorem take_linePath_succ (hm : m ≤ lineMoves x0 y0 x1 y1) :
    (linePath x0 y0 x1 y1).take (m + 1) = (linePath x0 y0 x1 y1).take m ++ [linePoint x0 y0 x1 y1 m] := by
  rw [List.take_add_one]
  simp [linePath_eq_map, Nat.lt_succ_iff.mpr hm]

theorem take_linePath_all : (linePath x0 y0 x1 y1).take (lineMoves x0 y0 x1 y1 + 1) = linePath x0 y0 x1 y1 :=
  List.take_of_length_le (by simp [linePath_eq_map])

/-- The exit test after point `m` (R131) ends the loop where that was the last point. -/
theorem lineProgress_succ (hm : m ≤ lineMoves x0 y0 x1 y1) :
    lineProgress x0 y0 x1 y1 (m + 1)
      = if (lineAfter m (lineStart x0 y0 x1 y1)).x = x1 ∧ (lineAfter m (lineStart x0 y0 x1 y1)).y = y1 then .lineEnd
        else .line (lineMove (lineAfter m (lineStart x0 y0 x1 y1))) := by
  rw [lineProgress, lineAfter_succ_last]
  by_cases hend : m = lineMoves x0 y0 x1 y1
  · rw [if_neg (by omega), if_pos ((lineAfter_end_iff hm).mpr hend)]
  · rw [if_pos (by omega), if_neg (mt (lineAfter_end_iff hm).mp hend)]

/-- The iteration after `m` others plots point `m` of the path. -/
theorem advance_lineProgress {s : State} (he : s.engine = lineProgress x0 y0 x1 y1 m)
    (hx1 : coordInt s.latch.lx1 = x1) (hy1 : coordInt s.latch.ly1 = y1) (hm : m ≤ lineMoves x0 y0 x1 y1) :
    advance s
      = { plotAll s.latch.lcolor [linePoint x0 y0 x1 y1 m] s with engine := lineProgress x0 y0 x1 y1 (m + 1) } := by
  rw [lineProgress, if_pos hm] at he
  rw [advance_line he, lineStep, hx1, hy1, ← lineProgress_succ hm]
  rfl

/-- DRAW_LINE's first `m` iterations plot the first `m` points of the path. -/
theorem advanceN_line {s : State} (he : s.engine = .line (lineStart x0 y0 x1 y1))
    (hx1 : coordInt s.latch.lx1 = x1) (hy1 : coordInt s.latch.ly1 = y1) (hm : m ≤ lineMoves x0 y0 x1 y1 + 1) :
    advanceN m s
      = { plotAll s.latch.lcolor ((linePath x0 y0 x1 y1).take m) s with engine := lineProgress x0 y0 x1 y1 m } := by
  induction m with
  | zero =>
    have hstart : lineProgress x0 y0 x1 y1 0 = s.engine := he.symm
    rw [hstart]
    rfl
  | succ m ih =>
    have hlatch := plotAll_latch s.latch.lcolor ((linePath x0 y0 x1 y1).take m) s
    rw [advanceN_succ_last, ih (by omega), advance_lineProgress rfl (by simpa [hlatch]) (by simpa [hlatch]) (by omega)]
    rw [take_linePath_succ (by omega), plotAll_append, plotAll_with_engine, hlatch]

end

/-- Where an accepted DRAW_LINE starts: at the first iteration for its operands (R131). -/
def drawLineStart (s : State) : Engine :=
  .line (lineStart (coordInt s.x0) (coordInt s.y0) (coordInt s.x1) (coordInt s.y1))

/-- The path between DRAW_LINE's operands. -/
def drawLinePath (s : State) : List (Int × Int) :=
  linePath (coordInt s.x0) (coordInt s.y0) (coordInt s.x1) (coordInt s.y1)

/-- The first `m` iterations of an accepted DRAW_LINE. -/
theorem advanceN_drawLine_prefix (c : Bool) (s : State) {m : Nat}
    (hm : m ≤ lineMoves (coordInt s.x0) (coordInt s.y0) (coordInt s.x1) (coordInt s.y1) + 1) :
    advanceN m (accepted c (drawLineStart s) s)
      = { plotAll c ((drawLinePath s).take m) (accepted c (drawLineStart s) s) with
          engine := lineProgress (coordInt s.x0) (coordInt s.y0) (coordInt s.x1) (coordInt s.y1) m } :=
  advanceN_line (s := accepted c (drawLineStart s) s) rfl rfl rfl hm

/-- The run of an accepted DRAW_LINE: one iteration for each point of its path, then completion. -/
theorem advanceN_drawLine (c : Bool) (s : State) :
    advanceN (lineMoves (coordInt s.x0) (coordInt s.y0) (coordInt s.x1) (coordInt s.y1) + 2)
        (accepted c (drawLineStart s) s)
      = finished c .ok (plotAll c (drawLinePath s) (accepted c (drawLineStart s) s)).fb s.busLog s := by
  have hplots := advanceN_drawLine_prefix c s le_rfl
  rw [drawLinePath, take_linePath_all, ← drawLinePath, lineProgress, if_neg (by omega)] at hplots
  rw [advanceN_succ_last, hplots, advance_lineEnd rfl]
  exact complete_plotAll_accepted c c (drawLineStart s) .ok (drawLinePath s) s

/-- Settles O20: DRAW_LINE is the run that plots every point of its path. -/
theorem drawLinePlotsItsPath : Obligations.DrawLinePlotsItsPath := by
  unfold Obligations.DrawLinePlotsItsPath
  intro s c hb hready
  obtain ⟨-, -, haccept, -⟩ := readyAcceptsTheCommands s c hb hready
  refine ⟨_, _, haccept, advanceN_drawLine c s, fun x y hon => ?_, fun i hi => ?_⟩
  · exact pixelOn_finished_plotAll _ _ _ _ _ _ hon
  · exact fbByte_finished_plotAll_other _ _ _ _ _ hi

/-- Settles O23: the first `m` iterations are the plots of the first `m` points. -/
theorem linePlotsInPathOrder : Obligations.LinePlotsInPathOrder := by
  unfold Obligations.LinePlotsInPathOrder
  intro s c m hb hready hm
  obtain ⟨-, -, haccept, -⟩ := readyAcceptsTheCommands s c hb hready
  refine ⟨accepted c (drawLineStart s) s, haccept, fun x y hon => ?_⟩
  rw [advanceN_drawLine_prefix c s hm]
  exact plotAll_pixel c ((drawLinePath s).take m) (accepted c (drawLineStart s) s) hon

end Sys2Proof.Machine
end

section
/-! PROOFS, 42_text. The points of DRAW_TEXT (R151, R156): which they are, and that each character keeps to its own cell
(R157). -/
namespace Sys2Proof.Machine

/-! The points of a glyph, bit by bit in plot order. -/

/-- The points of the first `m` bits of a glyph, counted down the columns from the left. -/
def glyphPrefix (g : Glyph) (cx y : Int) (m : Nat) : List (Int × Int) :=
  ((List.range m).filter fun (i : Nat) => glyphPixel g (i / 8) (i % 8)).map
    fun (i : Nat) => (cx + (i / 8 : Nat), y + (i % 8 : Nat))

/-- The point of one bit of a glyph: there is one where the bit is set (R152). -/
def bitPoints (g : Glyph) (cx y : Int) (col row : Nat) : List (Int × Int) :=
  if glyphPixel g col row then [(cx + col, y + row)] else []

theorem glyphPrefix_succ (g : Glyph) (cx y : Int) (m : Nat) :
    glyphPrefix g cx y (m + 1) = glyphPrefix g cx y m ++ bitPoints g cx y (m / 8) (m % 8) := by
  simp only [glyphPrefix, List.range_succ, List.filter_append, List.map_append, bitPoints]
  cases hbit : glyphPixel g (m / 8) (m % 8) <;> simp [hbit]

/-- A glyph's 48 bits, counted through, are six columns of eight. -/
theorem range_48_eq_columns :
    List.range 48 = (List.range 6).flatMap fun col => (List.range 8).map fun row => 8 * col + row := by decide

theorem glyphPoints_eq_prefix (g : Glyph) (cx y : Int) : glyphPoints g cx y = glyphPrefix g cx y 48 := by
  rw [glyphPrefix, range_48_eq_columns, List.filter_flatMap, List.map_flatMap, glyphPoints]
  refine List.flatMap_congr fun col _ => ?_
  have hbit : ∀ row ∈ List.range 8, (8 * col + row) / 8 = col ∧ (8 * col + row) % 8 = row := by
    simp only [List.mem_range]; omega
  rw [List.filter_map, List.map_map, List.filter_congr fun row hrow => ?_]
  · refine List.map_congr_left fun row hrow => ?_
    obtain ⟨hcol, hrow⟩ := hbit row (List.mem_of_mem_filter hrow)
    simp only [Function.comp_apply, hcol, hrow]
  · obtain ⟨hcol, hrow⟩ := hbit row hrow
    simp only [Function.comp_apply, hcol, hrow]

theorem mem_glyphPoints {g : Glyph} {cx y : Int} {q : Int × Int} :
    q ∈ glyphPoints g cx y
      ↔ ∃ col row : Nat, col < 6 ∧ row < 8 ∧ glyphPixel g col row = true ∧ q = (cx + col, y + row) := by
  simp only [glyphPoints, List.mem_flatMap, List.mem_map, List.mem_filter, List.mem_range]
  constructor
  · rintro ⟨col, hcol, row, ⟨hrow, hset⟩, rfl⟩
    exact ⟨col, row, hcol, hrow, hset, rfl⟩
  · rintro ⟨col, row, hcol, hrow, hset, rfl⟩
    exact ⟨col, hcol, row, ⟨hrow, hset⟩, rfl⟩

/-- A pixel of a glyph's cell is one of its points where its bit is set. -/
theorem cell_mem_glyphPoints (g : Glyph) (cx y : Int) {col row : Nat} (hcol : col < 6) (hrow : row < 8) :
    (cx + col, y + row) ∈ glyphPoints g cx y ↔ glyphPixel g col row = true := by
  rw [mem_glyphPoints]
  constructor
  · rintro ⟨col', row', -, -, hset, heq⟩
    obtain ⟨rfl, rfl⟩ : col' = col ∧ row' = row := by simp only [Prod.mk.injEq] at heq; omega
    exact hset
  · exact fun hset => ⟨col, row, hcol, hrow, hset, rfl⟩

theorem glyphPoints_nodup (g : Glyph) (cx y : Int) : (glyphPoints g cx y).Nodup := by
  rw [glyphPoints_eq_prefix, glyphPrefix]
  refine (List.nodup_range.filter _).map_on fun i _ j _ hij => ?_
  simp only [Prod.mk.injEq] at hij
  omega

/-! The points of a text, character by character. -/

/-- The points of a character at cursor `cx`: an unmapped one has none (R155). -/
def charPoints (p : Params) (ch : Byte) (cx y : Int) : List (Int × Int) :=
  match glyphOf p ch with
  | none => []
  | some g => glyphPoints g cx y

/-- The points of the first `n` characters. -/
def textPrefix (s : State) (x y : Int) (n : Nat) : List (Int × Int) :=
  (List.range n).flatMap fun (k : Nat) => charPoints s.params (textByte s k) (x + 7 * k) y

theorem textPoints_eq_prefix (s : State) :
    textPoints s = textPrefix s (coordInt s.x0) (coordInt s.y0) s.textLen.toNat := rfl

theorem textPrefix_succ (s : State) (x y : Int) (n : Nat) :
    textPrefix s x y (n + 1) = textPrefix s x y n ++ charPoints s.params (textByte s n) (x + 7 * n) y := by
  simp [textPrefix, List.range_succ]

theorem charPoints_of_unmapped {p : Params} {ch : Byte} (h : glyphOf p ch = none) (cx y : Int) :
    charPoints p ch cx y = [] := by
  rw [charPoints, h]

theorem charPoints_of_glyph {p : Params} {ch : Byte} {g : Glyph} (h : glyphOf p ch = some g) (cx y : Int) :
    charPoints p ch cx y = glyphPoints g cx y := by
  rw [charPoints, h]

theorem mem_charPoints {p : Params} {ch : Byte} {cx y : Int} {q : Int × Int} :
    q ∈ charPoints p ch cx y
      ↔ ∃ (col row : Nat) (g : Glyph), glyphOf p ch = some g ∧ col < 6 ∧ row < 8 ∧ glyphPixel g col row = true
          ∧ q = (cx + col, y + row) := by
  cases hg : glyphOf p ch with
  | none => simp [charPoints_of_unmapped hg]
  | some g => simp [charPoints_of_glyph hg, mem_glyphPoints]

theorem charPoints_nodup (p : Params) (ch : Byte) (cx y : Int) : (charPoints p ch cx y).Nodup := by
  cases hg : glyphOf p ch with
  | none => simp [charPoints_of_unmapped hg]
  | some g => rw [charPoints_of_glyph hg]; exact glyphPoints_nodup g cx y

theorem mem_textPoints {s : State} {q : Int × Int} :
    q ∈ textPoints s
      ↔ ∃ (k col row : Nat) (g : Glyph), k < s.textLen.toNat ∧ glyphOf s.params (textByte s k) = some g
          ∧ col < 6 ∧ row < 8 ∧ glyphPixel g col row = true
          ∧ q = (coordInt s.x0 + 7 * k + col, coordInt s.y0 + row) := by
  simp [textPoints_eq_prefix, textPrefix, mem_charPoints]

/-- Two characters have no point in common: a glyph is six columns wide and the cursor advances by seven. -/
theorem charPoints_disjoint (p : Params) (ch ch' : Byte) (x y : Int) {k k' : Nat} (h : k ≠ k') :
    (charPoints p ch (x + 7 * k) y).Disjoint (charPoints p ch' (x + 7 * k') y) := by
  intro q hq hq'
  obtain ⟨col, _, _, -, hcol, -, -, rfl⟩ := mem_charPoints.mp hq
  obtain ⟨col', _, _, -, hcol', -, -, heq⟩ := mem_charPoints.mp hq'
  simp only [Prod.mk.injEq] at heq
  omega

theorem textPrefix_nodup (s : State) (x y : Int) (n : Nat) : (textPrefix s x y n).Nodup := by
  refine List.nodup_flatMap.mpr ⟨fun k _ => charPoints_nodup _ _ _ _, ?_⟩
  exact List.nodup_range.imp fun h => charPoints_disjoint _ _ _ _ _ h

/-- Settles O25: the points are those of the set glyph bits, and the four claims are arithmetic of their columns and
rows. -/
theorem textStaysInItsCells : Obligations.TextStaysInItsCells := by
  unfold Obligations.TextStaysInItsCells
  intro s
  refine ⟨fun q => mem_textPoints, fun q hq k => ?_, textPrefix_nodup s _ _ _, fun hmod hpos q hq => ?_⟩
  · obtain ⟨k', col, row, g, -, -, hcol, -, -, rfl⟩ := mem_textPoints.mp hq
    simp only
    omega
  · obtain ⟨k', col, row, g, -, -, -, hrow, -, rfl⟩ := mem_textPoints.mp hq
    have hpage : (coordInt s.y0 + row).toNat / 8 = (coordInt s.y0).toNat / 8 := by omega
    rw [pixelIndex, hpage]

end Sys2Proof.Machine
end

section
/-! PROOFS, 42_text. DRAW_TEXT as the run that plots its points, one glyph bit an event (R151, R152, R153, R155), and
the one glyph the source fixes (R158). -/
namespace Sys2Proof.Machine

/-! Runs of plots: a state further on by points plotted and by the engine's progress. -/

/-- The state after the plots of a list of points, the engine at `e`. -/
def afterPlots (points : List (Int × Int)) (e : Engine) (s : State) : State :=
  { plotAll true points s with engine := e }

theorem afterPlots_nil {e : Engine} {s : State} (he : s.engine = e) : afterPlots [] e s = s := by
  rw [← he]
  rfl

section
variable (points : List (Int × Int)) (e : Engine) (s : State)

@[simp] theorem afterPlots_engine : (afterPlots points e s).engine = e := rfl

@[simp] theorem afterPlots_latch : (afterPlots points e s).latch = s.latch := plotAll_latch true points s

@[simp] theorem afterPlots_params : (afterPlots points e s).params = s.params := plotAll_params true points s

@[simp] theorem textByte_afterPlots (k : Nat) : textByte (afterPlots points e s) k = textByte s k :=
  plotAll_textByte true points s k

theorem afterPlots_append (points' : List (Int × Int)) (e' : Engine) :
    afterPlots points' e' (afterPlots points e s) = afterPlots (points ++ points') e' s := by
  rw [afterPlots, afterPlots, plotAll_with_engine, afterPlots, plotAll_append]

end

/-! The events of a character. -/

theorem advance_text_engine {s : State} {k : Nat} {cx : Int} {col row : Nat} (he : s.engine = .text k cx col row) :
    advance s = textStep k cx col row s := by
  rw [advance_running (by simp [waiting, he]), engineStep, he]

/-- An unmapped character takes one event, which advances the cursor. -/
theorem textStep_of_unmapped {s : State} {k : Nat} (hk : k < s.latch.llen.toNat)
    (hg : glyphOf s.params (textByte s k) = none) (cx : Int) (col row : Nat) :
    textStep k cx col row s = afterPlots [] (.text (k + 1) (cx + 7) 0 0) s := by
  rw [textStep, if_pos hk, hg]
  rfl

/-- A glyph bit takes one event, which plots its point if it has one. -/
theorem textStep_of_glyph {s : State} {k : Nat} {g : Glyph} (hk : k < s.latch.llen.toNat)
    (hg : glyphOf s.params (textByte s k) = some g) (cx : Int) (col row : Nat) :
    textStep k cx col row s
      = afterPlots (bitPoints g cx (coordInt s.latch.ly0) col row) (textNext k cx col row) s := by
  rw [textStep, if_pos hk, hg, bitPoints]
  dsimp only
  split <;> rfl

/-- The engine's progress after `m` bits of character `k`'s glyph: before the next bit, or at the next character. -/
def glyphProgress (k : Nat) (cx : Int) (m : Nat) : Engine :=
  if m < 48 then .text k cx (m / 8) (m % 8) else .text (k + 1) (cx + 7) 0 0

/-- The first `m` events of a character with a glyph plot the points of its first `m` bits. -/
theorem advanceN_glyph {s : State} {k : Nat} {cx : Int} {g : Glyph} (he : s.engine = .text k cx 0 0)
    (hk : k < s.latch.llen.toNat) (hg : glyphOf s.params (textByte s k) = some g) {m : Nat} (hm : m ≤ 48) :
    advanceN m s = afterPlots (glyphPrefix g cx (coordInt s.latch.ly0) m) (glyphProgress k cx m) s := by
  induction m with
  | zero => exact (afterPlots_nil he).symm
  | succ m ih =>
    have hbit : glyphProgress k cx m = .text k cx (m / 8) (m % 8) := if_pos hm
    have hnext : textNext k cx (m / 8) (m % 8) = glyphProgress k cx (m + 1) := textNext_flat k cx m hm
    rw [advanceN_succ_last, ih (by omega), advance_text_engine hbit,
      textStep_of_glyph (by simpa using hk) (by simpa using hg), afterPlots_append, afterPlots_latch, hnext,
      glyphPrefix_succ]

/-- A character takes at most 48 events, which plot its points and advance the cursor (R153). -/
theorem advanceN_char {s : State} {k : Nat} {cx : Int} (he : s.engine = .text k cx 0 0)
    (hk : k < s.latch.llen.toNat) :
    ∃ n ≤ 48, advanceN n s
      = afterPlots (charPoints s.params (textByte s k) cx (coordInt s.latch.ly0)) (.text (k + 1) (cx + 7) 0 0) s := by
  cases hg : glyphOf s.params (textByte s k) with
  | none =>
    refine ⟨1, by decide, ?_⟩
    rw [charPoints_of_unmapped hg, advanceN_succ, advanceN_zero, advance_text_engine he, textStep_of_unmapped hk hg]
  | some g =>
    refine ⟨48, le_rfl, ?_⟩
    rw [charPoints_of_glyph hg, glyphPoints_eq_prefix, advanceN_glyph he hk hg le_rfl]
    rfl

/-! The events of a text. -/

/-- The first `n` characters take at most 48 events each, which plot their points. -/
theorem advanceN_text {s : State} {x : Int} (he : s.engine = .text 0 x 0 0) {n : Nat}
    (hn : n ≤ s.latch.llen.toNat) :
    ∃ m ≤ 48 * n, advanceN m s
      = afterPlots (textPrefix s x (coordInt s.latch.ly0) n) (.text n (x + 7 * n) 0 0) s := by
  induction n with
  | zero => exact ⟨0, le_rfl, (afterPlots_nil (by simp [he])).symm⟩
  | succ n ih =>
    obtain ⟨m, hm, hrun⟩ := ih (by omega)
    obtain ⟨m', hm', hchar⟩ := advanceN_char (s := advanceN m s) (k := n) (cx := x + 7 * n) (by rw [hrun]; rfl)
      (by rw [hrun, afterPlots_latch]; exact hn)
    have hcursor : x + 7 * (n : Int) + 7 = x + 7 * ((n + 1 : Nat) : Int) := by push_cast; ring
    refine ⟨m + m', by omega, ?_⟩
    rw [advanceN_add, hchar, hrun, afterPlots_append, afterPlots_latch, afterPlots_params, textByte_afterPlots,
      textPrefix_succ, hcursor]

/-- Where an accepted DRAW_TEXT starts: at the first bit of the first character, the cursor at X0 (R151). -/
def drawTextStart (s : State) : Engine := .text 0 (coordInt s.x0) 0 0

/-- The run of an accepted DRAW_TEXT: its characters, then completion. -/
theorem advanceN_drawText (c : Bool) (s : State) :
    ∃ n ≤ 48 * s.textLen.toNat + 1, advanceN n (accepted c (drawTextStart s) s)
      = finished c .ok (plotAll true (textPoints s) (accepted c (drawTextStart s) s)).fb s.busLog s := by
  obtain ⟨m, hm, hrun⟩ := advanceN_text (s := accepted c (drawTextStart s) s) rfl (Nat.le_refl s.textLen.toNat)
  refine ⟨m + 1, by omega, ?_⟩
  rw [advanceN_succ_last, hrun, advance_text_engine rfl, textStep, if_neg]
  · exact complete_plotAll_accepted c true (drawTextStart s) .ok (textPoints s) s
  · rw [afterPlots_latch]; exact Nat.lt_irrefl _

/-- Settles O24: DRAW_TEXT is the run that plots every point of its text. -/
theorem drawTextPlotsItsGlyphs : Obligations.DrawTextPlotsItsGlyphs := by
  unfold Obligations.DrawTextPlotsItsGlyphs
  intro s c hb hready
  obtain ⟨-, -, -, haccept, -⟩ := readyAcceptsTheCommands s c hb hready
  obtain ⟨n, hn, hrun⟩ := advanceN_drawText c s
  refine ⟨_, _, n, haccept, hn, hrun, fun x y hon => ?_, fun i hi => ?_⟩
  · exact pixelOn_finished_plotAll _ _ _ _ _ _ hon
  · exact fbByte_finished_plotAll_other _ _ _ _ _ hi

/-! The glyph of '0'. -/

/-- A legal build has the one glyph the source fixes. -/
theorem glyphOf_zero {p : Params} (h : p.wf = true) : glyphOf p 0x30#8 = some Config.glyphZero := by
  obtain ⟨-, -, -, -, -, -, -, -, hzero⟩ := (params_wf_iff p).mp h
  exact congrArg Option.join hzero

/-- In the top page a column is one byte, whose bits are its pixels (10_state R21). -/
theorem getLsbD_fbByte_top (s : State) (i : Nat) {j : Nat} (hj : j < 8) : (fbByte s i).getLsbD j = pixelOn s i j := by
  simp [pixelOn, pixelIndex, pixelBit, Nat.div_eq_of_lt hj, Nat.mod_eq_of_lt hj]

/-- The one character 0x30 at (0, 0) has the points of the glyph of '0'. -/
theorem textPoints_of_zero {s : State} (hwf : s.params.wf = true) (hx0 : s.x0 = 0#16) (hy0 : s.y0 = 0#16)
    (hlen : s.textLen = 1#9) (htext : textByte s 0 = 0x30#8) : textPoints s = glyphPoints Config.glyphZero 0 0 := by
  have hpoints : textPoints s = charPoints s.params 0x30#8 0 0 := by
    simp [textPoints_eq_prefix, textPrefix, hx0, hy0, hlen, htext, coordInt]
  rw [hpoints, charPoints_of_glyph (glyphOf_zero hwf)]

/-- Settles O26: on a clear cell, the pixels of each column are the bits of its glyph byte. -/
theorem zeroGlyphReproducesItsColumns : Obligations.ZeroGlyphReproducesItsColumns := by
  unfold Obligations.ZeroGlyphReproducesItsColumns
  intro s c hinv hb hready hwidth hx0 hy0 hlen htext hclear
  obtain ⟨-, -, -, hheight, -⟩ := (params_wf_iff s.params).mp hinv.params_wf
  obtain ⟨t, fb, n, haccept, -, hrun, hpixel, -⟩ := drawTextPlotsItsGlyphs s c hb hready
  have hcolumn (i : Nat) (hi : i < 6) : fbByte (finished c .ok fb s.busLog s) i = glyphColumn Config.glyphZero i := by
    refine BitVec.eq_of_getLsbD_eq fun j hj => ?_
    have hon : onScreen s.params i j = true := by rw [onScreen_iff]; omega
    have hoff : pixelOn s i j = false := by rw [← getLsbD_fbByte_top s i hj, hclear i hi]; simp
    have hpoint : ((i : Int), (j : Int)) ∈ textPoints s ↔ glyphPixel Config.glyphZero i j = true := by
      rw [textPoints_of_zero hinv.params_wf hx0 hy0 hlen htext]
      simpa using cell_mem_glyphPoints Config.glyphZero 0 0 hi hj
    rw [getLsbD_fbByte_top _ i hj, hpixel _ _ hon, hoff]
    simp [hpoint, glyphPixel]
  exact ⟨t, _, n, haccept, hrun, rfl, rfl, hcolumn 0 (by decide), hcolumn 1 (by decide), hcolumn 2 (by decide),
    hcolumn 3 (by decide), hcolumn 4 (by decide), hcolumn 5 (by decide)⟩

end Sys2Proof.Machine
end

section
/-! PROOFS, 43_transfer. The bus log (R170, R171): which events change it, and that the one that issues a transaction
finds none outstanding. -/
namespace Sys2Proof.Machine

/-- An issue made in one event: none is outstanding before it, one non-empty transaction at DEV_ADDR after it. -/
def issuesOne (s t : State) : Prop :=
  waiting s = false ∧ waiting t = true
    ∧ ∃ bytes, bytes ≠ [] ∧ t.busLog = s.busLog ++ [⟨s.devAddr, bytes, none⟩]

/-- A word write keeps the bus log. -/
theorem wordWrite_busLog {o : Offset} {v : Word} {s t : State} (h : wordWrite o v s = .next t) :
    t.busLog = s.busLog := by
  obtain ⟨-, e⟩ | ⟨-, e⟩ | ⟨-, e⟩ | ⟨-, e⟩ := wordWrite_cases o v s <;> rw [e] at h
  · obtain ⟨-, rfl⟩ | ⟨-, code, rfl⟩ | ⟨-, -, c, e, rfl, -⟩ | ⟨-, -, c, rfl⟩ := commandWrite_cases h <;> rfl
  · cases h; exact statusWrite_busLog v s
  · cases h; rfl
  · cases h
    obtain ⟨_, _, _, _, _, _, _, hstore⟩ := storeReg_frame (regAt o.toNat) v s
    rw [hstore]

/-- A move of the host keeps the bus log. -/
theorem hostStep_busLog {s t : State} (h : hostStep s = .next t) : t.busLog = s.busLog := by
  obtain ⟨_, _, _, -, -, hwrite⟩ | ⟨_, _, rfl⟩ := hostStep_cases h
  · exact (wordWrite_busLog hwrite).trans (advanceHost_busLog s)
  · rfl

theorem flushBytes_ne_nil (s : State) (p j : Nat) : flushBytes s p j ≠ [] := by
  unfold flushBytes
  split <;> exact List.cons_ne_nil _ _

/-- INIT's sending step keeps the log, at its completion, or issues a transaction. -/
theorem initSendStep_busLog (n : Nat) {s : State} (hwait : waiting s = false) :
    (initSendStep n s).busLog = s.busLog ∨ issuesOne s (initSendStep n s) := by
  unfold initSendStep
  split
  · exact .inr ⟨hwait, rfl, _, List.cons_ne_nil _ _, rfl⟩
  · exact .inl rfl

/-- FLUSH's sending step keeps the log, at its completion, or issues a transaction. -/
theorem flushSendStep_busLog (p j : Nat) {s : State} (hwait : waiting s = false) :
    (flushSendStep p j s).busLog = s.busLog ∨ issuesOne s (flushSendStep p j s) := by
  unfold flushSendStep
  split
  · exact .inr ⟨hwait, rfl, _, flushBytes_ne_nil s p j, rfl⟩
  · exact .inl rfl

/-- A step of the engine keeps the log or issues a transaction. -/
theorem engineStep_busLog_or_issuesOne (s : State) :
    (engineStep s).busLog = s.busLog ∨ issuesOne s (engineStep s) := by
  cases he : s.engine with
  | initClear i =>
    simp only [engineStep, he, initClearStep]
    split
    · exact .inl rfl
    · exact initSendStep_busLog 0 (by simp [waiting, he])
  | initSend n =>
    simp only [engineStep, he]
    exact initSendStep_busLog n (by simp [waiting, he])
  | flushSend p j =>
    simp only [engineStep, he]
    exact flushSendStep_busLog p j (by simp [waiting, he])
  | initWait | flushWait => exact .inl (by simp only [engineStep, he])
  | initAbort => exact .inl (by simp [engineStep, he, initAbortStep])
  | flushAbort => exact .inl (by simp [engineStep, he, flushAbortStep])
  | _ => exact .inl (engineStep_busLog (by simp [he, engineOp]) (by simp [he, engineOp]))

/-- While a transaction is outstanding it is the log's last entry. -/
theorem Inv.lastUnanswered_of_waiting {s : State} (h : Inv s) (hwait : waiting s = true) : lastUnanswered s := by
  obtain ⟨n, he⟩ | ⟨p, j, he⟩ := (waiting_iff s).mp hwait
  · obtain ⟨-, -, hlast⟩ : n < s.params.initSeq.length ∧ fbCleared s ∧ lastUnanswered s := by
      simpa only [engineOk, he] using h.engine_ok
    exact hlast
  · obtain ⟨-, -, hlast⟩ : p < s.params.pages ∧ j < 4 ∧ lastUnanswered s := by
      simpa only [engineOk, he] using h.engine_ok
    exact hlast

/-- After the answer nothing is outstanding. -/
theorem waiting_of_answered {s t : State} {r : Answer} (hwait : waiting s = true)
    (ht : t.engine = afterAnswer r s.engine) : waiting t = false := by
  obtain ⟨n, he⟩ | ⟨p, j, he⟩ := (waiting_iff s).mp hwait
  · cases r <;> simp [waiting, ht, he, afterAnswer]
  · cases r
    · by_cases hj : j < 3 <;> simp [waiting, ht, he, afterAnswer, flushNext, hj]
    · simp [waiting, ht, he, afterAnswer]

/-- Settles O7, by agent: the host and a reset keep the log, the engine issues only while it does not wait, and the Bus
Transport answers the entry that the invariant has last. -/
theorem oneTransactionOutstanding : Obligations.OneTransactionOutstanding := by
  unfold Obligations.OneTransactionOutstanding
  intro s t h hstep
  obtain ⟨sched, -, ⟨-, ht⟩ | ⟨-, rfl⟩ | ⟨-, rfl⟩ | ⟨-, rfl⟩⟩ := step_cases hstep
  · exact .inl (hostStep_busLog (s := { s with sched := sched }) ht)
  · exact (engineStep_busLog_or_issuesOne { s with sched := sched }).imp_right .inl
  · obtain ⟨r, rest, hwait, -, hbus⟩ | ⟨-, hbus⟩ := busStep_cases { s with sched := sched } <;> rw [hbus]
    · obtain ⟨log, bytes, hlast⟩ := h.lastUnanswered_of_waiting hwait
      refine .inr (.inr ⟨hwait, waiting_of_answered hwait rfl, log, bytes, r, hlast, ?_⟩)
      rw [hlast, recordAnswer_append]
    · exact .inl rfl
  · exact .inl rfl

end Sys2Proof.Machine
end

section
/-! PROOFS, 43_transfer. The list of transactions that INIT and FLUSH share: a command that sends the transactions of a
list in order, up to its end or to the first FAIL (R181, R186). -/
namespace Sys2Proof.Machine

/-- The block at a point of a transfer: the log, the answers to come and the engine's progress as given. -/
def atTransfer (log : List Transaction) (answers : List Answer) (e : Engine) (s : State) : State :=
  { s with busLog := log, answers := answers, engine := e }

/-- The running command's next event at `send n` issues transaction `n` of `txns`, and at `wait n` it awaits the answer:
an OK takes it to `send (n + 1)`, a FAIL to `abort`. -/
structure SendsInOrder (s : State) (txns : List (List Byte)) (send wait : Nat → Engine) (abort : Engine) : Prop where
  issues : ∀ (n : Nat) (hn : n < txns.length) (log : List Transaction) (answers : List Answer),
    advance (atTransfer log answers (send n) s)
      = atTransfer (log ++ [⟨s.devAddr, txns[n], none⟩]) answers (wait n) s
  awaits : ∀ (n : Nat) (log : List Transaction) (answers : List Answer),
    waiting (atTransfer log answers (wait n) s) = true
  after_ok : ∀ n, afterAnswer .ok (wait n) = send (n + 1)
  after_fail : ∀ n, afterAnswer .fail (wait n) = abort

section
variable {s : State} {txns : List (List Byte)} {send wait : Nat → Engine} {abort : Engine}

/-- A transaction's issue and its answer. -/
theorem SendsInOrder.advanceN_exchange (h : SendsInOrder s txns send wait abort) {n : Nat} (hn : n < txns.length)
    (log : List Transaction) (r : Answer) (rest : List Answer) :
    advanceN 2 (atTransfer log (r :: rest) (send n) s)
      = atTransfer (log ++ [⟨s.devAddr, txns[n], some r⟩]) rest (afterAnswer r (wait n)) s := by
  rw [advanceN_succ, advanceN_succ, advanceN_zero, h.issues n hn]
  exact advance_answered (h.awaits n _ _) rfl rfl rfl

/-- The first `n` transactions, each answered OK. -/
theorem SendsInOrder.advanceN_oks (h : SendsInOrder s txns send wait abort) {n : Nat} (hn : n ≤ txns.length)
    (log : List Transaction) (rest : List Answer) :
    advanceN (2 * n) (atTransfer log (List.replicate n .ok ++ rest) (send 0) s)
      = atTransfer (log ++ logEntries s .ok (txns.take n)) rest (send n) s := by
  induction n generalizing rest with
  | zero => simp [logEntries]
  | succ n ih =>
    rw [List.replicate_succ', List.append_assoc, Nat.mul_succ, advanceN_add, ih (by omega)]
    rw [List.singleton_append, h.advanceN_exchange hn, h.after_ok, ← List.take_append_getElem hn]
    simp only [logEntries, List.map_append, List.append_assoc]
    rfl

/-- The whole list, each transaction answered OK. -/
theorem SendsInOrder.advanceN_all (h : SendsInOrder s txns send wait abort) (log : List Transaction)
    (rest : List Answer) :
    advanceN (2 * txns.length) (atTransfer log (List.replicate txns.length .ok ++ rest) (send 0) s)
      = atTransfer (log ++ logEntries s .ok txns) rest (send txns.length) s := by
  rw [h.advanceN_oks (Nat.le_refl _), List.take_length]

/-- The transactions up to number `n`, the first to be answered FAIL. -/
theorem SendsInOrder.advanceN_fail (h : SendsInOrder s txns send wait abort) {n : Nat} (hn : n < txns.length)
    (log : List Transaction) (rest : List Answer) :
    advanceN (2 * (n + 1)) (atTransfer log (List.replicate n .ok ++ .fail :: rest) (send 0) s)
      = atTransfer (log ++ logEntries s .ok (txns.take n) ++ logEntries s .fail txns[n]?.toList) rest abort s := by
  rw [Nat.mul_succ, advanceN_add, h.advanceN_oks (Nat.le_of_lt hn), h.advanceN_exchange hn, h.after_fail,
    List.getElem?_eq_getElem hn]
  rfl

end

end Sys2Proof.Machine
end

section
/-! PROOFS, 43_transfer. FLUSH as the transfer of its list of transactions (R186, R191, R192, R195). -/
namespace Sys2Proof.Machine

/-- Transaction `q`, counted through the pages, is next. -/
def flushSendAt (q : Nat) : Engine := .flushSend (q / 4) (q % 4)

/-- Transaction `q`, counted through the pages, waits for its answer. -/
def flushWaitAt (q : Nat) : Engine := .flushWait (q / 4) (q % 4)

theorem length_flushTxns (s : State) : (flushTxns s).length = 4 * s.params.pages := by
  simp [flushTxns_eq]

/-- A page's transactions have `WIDTH + 7` bytes. -/
theorem length_flatten_flushTxns (s : State) :
    (flushTxns s).flatten.length = s.params.pages * (s.params.width + 7) := by
  have hpage : 2 + (2 + (2 + (s.params.width + 1))) = s.params.width + 7 := by omega
  simp [flushTxns, List.flatMap, pageSlice, List.length_flatten, List.map_flatten, List.sum_flatten, Function.comp_def,
    hpage]

/-- FLUSH issues the transactions of its list in order: what it sends does not depend on the log or the answers. -/
theorem flush_sendsInOrder (s : State) : SendsInOrder s (flushTxns s) flushSendAt flushWaitAt .flushAbort where
  issues n hn log answers := by
    have hpage : n / 4 < s.params.pages := by rw [length_flushTxns] at hn; omega
    have hbytes : flushBytes (atTransfer log answers (flushSendAt n) s) (n / 4) (n % 4) = (flushTxns s)[n] := by
      rw [flushBytes_congr s (atTransfer log answers (flushSendAt n) s) rfl rfl rfl]
      simp [flushTxns_eq]
    rw [← hbytes, advance_running rfl]
    exact if_pos hpage
  awaits _ _ _ := rfl
  after_ok n := flushNext_flat n
  after_fail _ := rfl

/-- After the last page FLUSH completes. -/
theorem advance_flush_end {s : State} (he : s.engine = flushSendAt (4 * s.params.pages)) :
    advance s = complete .ok s := by
  have hpage : ¬4 * s.params.pages / 4 < s.params.pages := by omega
  rw [advance_running (by simp [waiting, he, flushSendAt]), engineStep, he]
  exact if_neg hpage

/-- After a FAIL FLUSH completes with TRANSPORT_ERROR. -/
theorem advance_flushAbort {s : State} (he : s.engine = .flushAbort) : advance s = complete .transportError s := by
  rw [advance_running (by simp [waiting, he]), engineStep, he, flushAbortStep]

/-- Settles O29: an accepted FLUSH is the transfer of its whole list, then completion. -/
theorem flushSendsEveryPage : Obligations.FlushSendsEveryPage := by
  unfold Obligations.FlushSendsEveryPage
  intro s c rest hb hready ha
  obtain ⟨-, -, -, -, haccept⟩ := readyAcceptsTheCommands s c hb hready
  have hsent := (flush_sendsInOrder (accepted c (.flushSend 0 0) s)).advanceN_all s.busLog rest
  have hlen : (flushTxns (accepted c (.flushSend 0 0) s)).length = 4 * s.params.pages := length_flushTxns _
  rw [hlen, ← ha] at hsent
  refine ⟨_, haccept, ?_, length_flushTxns s, length_flatten_flushTxns s⟩
  rw [advanceN_succ_last]
  exact (congrArg advance hsent).trans (advance_flush_end rfl)

/-- Settles O30: an accepted FLUSH is the transfer of its list up to the FAIL, then completion. -/
theorem flushStopsAtTheFirstFail : Obligations.FlushStopsAtTheFirstFail := by
  unfold Obligations.FlushStopsAtTheFirstFail
  intro s c n rest hb hready hn ha
  obtain ⟨-, -, -, -, haccept⟩ := readyAcceptsTheCommands s c hb hready
  have hlen : n < (flushTxns (accepted c (.flushSend 0 0) s)).length := hn.trans_eq (length_flushTxns _).symm
  have hsent := (flush_sendsInOrder (accepted c (.flushSend 0 0) s)).advanceN_fail hlen s.busLog rest
  rw [← ha] at hsent
  refine ⟨_, haccept, ?_⟩
  rw [advanceN_succ_last]
  exact (congrArg advance hsent).trans (advance_flushAbort rfl)

/-- Settles O31: the transactions sent depend on the framebuffer, the parameters and the epoch, their address on
DEV_ADDR. -/
theorem flushTwiceSendsTheSameBytes : Obligations.FlushTwiceSendsTheSameBytes := by
  unfold Obligations.FlushTwiceSendsTheSameBytes
  intro s v c d rest rest' hsb hsready hsa hvb hvready hva hfb haddr hparams hepoch
  obtain ⟨t, ht, hrun, -, -⟩ := flushSendsEveryPage s c rest hsb hsready hsa
  obtain ⟨t', ht', hrun', -, -⟩ := flushSendsEveryPage v d rest' hvb hvready hva
  have hsame : logEntries v .ok (flushTxns v) = logEntries s .ok (flushTxns s) := by
    rw [flushTxns_congr s v hfb hparams hepoch, logEntries, haddr, logEntries]
  rw [hparams, hsame] at hrun'
  refine ⟨t, t', logEntries s .ok (flushTxns s), ht, ht', ?_⟩
  rw [hrun, hrun']
  exact ⟨rfl, rfl, rfl, rfl⟩

end Sys2Proof.Machine
end

section
/-! PROOFS, 43_transfer. INIT as the clear of the framebuffer and the transfer of INIT_SEQ (R181, R184). -/
namespace Sys2Proof.Machine

theorem length_initTxns (s : State) : (initTxns s).length = s.params.initSeq.length := List.length_map _

/-- INIT issues the transactions of its list in order. -/
theorem init_sendsInOrder (s : State) : SendsInOrder s (initTxns s) .initSend .initWait .initAbort where
  issues n hn log answers := by
    have hseq : n < s.params.initSeq.length := by rwa [length_initTxns] at hn
    have hbyte : s.params.initSeq[n]? = some s.params.initSeq[n] := List.getElem?_eq_getElem hseq
    have hbytes : (initTxns s)[n] = cmdTxn s.params.initSeq[n] := List.getElem_map _
    rw [advance_running rfl, hbytes]
    simp only [engineStep, atTransfer, initSendStep, hbyte]
    rfl
  awaits _ _ _ := rfl
  after_ok _ := rfl
  after_fail _ := rfl

/-- After the last byte of INIT_SEQ, INIT completes in READY. -/
theorem advance_init_end {s : State} (he : s.engine = .initSend s.params.initSeq.length) :
    advance s = { complete .ok s with ctl := .ready } := by
  rw [advance_running (by simp [waiting, he]), engineStep, he]
  simp [initSendStep]

/-- After a FAIL INIT completes in FAILED with INIT_ERROR. -/
theorem advance_initAbort {s : State} (he : s.engine = .initAbort) :
    advance s = { complete .initError s with ctl := .failed } := by
  rw [advance_running (by simp [waiting, he]), engineStep, he, initAbortStep]

/-- A clear of INIT at byte `i`, with the engine at `e` after it. -/
theorem advance_initClear {s : State} {i : Nat} {e : Engine} (he : s.engine = .initClear i) (hi : i < s.params.fbBytes)
    (hnext : (if i + 1 < s.params.fbBytes then .initClear (i + 1) else .initSend 0) = e) :
    advance s = { s with fb := s.fb.write i 0x00#8, engine := e } := by
  rw [advance_running (by simp [waiting, he]), engineStep, he, ← hnext]
  exact if_pos hi

/-- Before the last clear, INIT's first `n` events clear the first `n` bytes. -/
theorem advanceN_initClear {s : State} (he : s.engine = .initClear 0) {n : Nat} (hn : n < s.params.fbBytes) :
    advanceN n s = { s with fb := s.fb.writePrefix 0x00#8 n, engine := .initClear n } := by
  induction n with
  | zero => rw [← he]; rfl
  | succ n ih =>
    rw [advanceN_succ_last, ih (by omega)]
    exact advance_initClear rfl (Nat.lt_of_succ_lt hn) (if_pos hn)

/-- The clear of the last byte leads to the first transaction. -/
theorem advanceN_initClear_all {s : State} (he : s.engine = .initClear 0) (hpos : 0 < s.params.fbBytes) :
    advanceN s.params.fbBytes s
      = { s with fb := s.fb.writePrefix 0x00#8 s.params.fbBytes, engine := .initSend 0 } := by
  obtain ⟨n, hn⟩ := Nat.exists_eq_add_one.mpr hpos
  have hlast : n < s.params.fbBytes := by omega
  rw [hn, advanceN_succ_last, advanceN_initClear he hlast]
  exact advance_initClear rfl hlast (if_neg hn.not_gt)

/-- The state in which INIT has cleared the framebuffer and sent nothing. -/
def initCleared (c : Bool) (s : State) : State :=
  { accepted c (.initSend 0) s with
    ctl := .initializing
    fb := s.fb.writePrefix 0x00#8 s.params.fbBytes }

/-- The run of an accepted INIT up to its first transaction. -/
theorem advanceN_initCleared (c : Bool) {s : State} (hwf : s.params.wf = true) :
    advanceN s.params.fbBytes { accepted c (.initClear 0) s with ctl := .initializing } = initCleared c s :=
  advanceN_initClear_all (s := { accepted c (.initClear 0) s with ctl := .initializing }) rfl (fbBytes_pos hwf)

/-- INIT's clear writes 0x00 to every byte of the framebuffer and nothing past it. -/
theorem lookup_cleared (s : State) :
    (∀ i < s.params.fbBytes, (s.fb.writePrefix 0x00#8 s.params.fbBytes).lookup i = some 0x00#8)
      ∧ ∀ i, s.params.fbBytes ≤ i → (s.fb.writePrefix 0x00#8 s.params.fbBytes).lookup i = s.fb.lookup i :=
  ⟨fun i hi => by rw [Memory.lookup_writePrefix, if_pos hi],
    fun i hi => by rw [Memory.lookup_writePrefix, if_neg (Nat.not_lt.mpr hi)]⟩

/-- Settles O27: an accepted INIT clears FB, is then the transfer of INIT_SEQ, and completes in READY. -/
theorem initSendsItsSequence : Obligations.InitSendsItsSequence := by
  unfold Obligations.InitSendsItsSequence
  intro s c rest hwf hb hctl ha
  have hsent := (init_sendsInOrder (initCleared c s)).advanceN_all s.busLog rest
  have hlen : (initTxns (initCleared c s)).length = s.params.initSeq.length := length_initTxns _
  rw [hlen, ← ha] at hsent
  obtain ⟨hclear, hframe⟩ := lookup_cleared s
  refine ⟨_, _, initIsAccepted s c hb hctl, ?_, hclear, hframe⟩
  rw [advanceN_succ_last, advanceN_add, advanceN_initCleared c hwf]
  exact (congrArg advance hsent).trans (advance_init_end rfl)

/-- Settles O28: an accepted INIT clears FB, is then the transfer of INIT_SEQ up to the FAIL, and completes in FAILED. -/
theorem initStopsAtTheFirstFail : Obligations.InitStopsAtTheFirstFail := by
  unfold Obligations.InitStopsAtTheFirstFail
  intro s c n rest hwf hb hctl hn ha
  have hlen : n < (initTxns (initCleared c s)).length := hn.trans_eq (length_initTxns _).symm
  have hsent := (init_sendsInOrder (initCleared c s)).advanceN_fail hlen s.busLog rest
  rw [← ha] at hsent
  obtain ⟨hclear, hframe⟩ := lookup_cleared s
  refine ⟨_, _, initIsAccepted s c hb hctl, ?_, hclear, hframe⟩
  rw [advanceN_succ_last, advanceN_add, advanceN_initCleared c hwf]
  exact (congrArg advance hsent).trans (advance_initAbort rfl)

end Sys2Proof.Machine
end

section
/-! PROOFS, 60_exceptions. The rejected command writes (R204, R205), and the events that change DROP (R206) and RESULT
(R211). -/
namespace Sys2Proof.Machine

/-! Rejection. -/

/-- With BUSY 0 a word that does not decode is rejected, whatever the reason (30_encoding R95). -/
theorem commandWrite_of_error {w : Word} {e : DecodeError} {s : State} (h : decode w = .error e)
    (hb : s.busy = false) : commandWrite w s = .next (reject .illegalCommand s) := by
  simp [commandWrite, h, hb]

/-- Settles O13: a word that decodes has the fields of a legal one, so this one does not decode. -/
theorem illegalWordIsRejected : Obligations.IllegalWordIsRejected := by
  unfold Obligations.IllegalWordIsRejected
  intro s w hb hillegal
  obtain ⟨hlegal, -, ⟨i, hi⟩ | ⟨e, he⟩⟩ := legalWordsAreTheTwelve w
  · obtain ⟨hrsv, hlo, hhi⟩ := hlegal.mp ⟨i, hi⟩
    omega
  · exact commandWrite_of_error he hb

/-- Settles O15: the acceptance procedure rejects INIT outside its two STATEs, and any other command outside READY. -/
theorem wrongStateIsRejected : Obligations.WrongStateIsRejected := by
  unfold Obligations.WrongStateIsRejected
  intro s c hb
  refine ⟨fun hctl => ?_, fun hctl => ?_⟩
  · have hwrong : acceptsInit s.ctl = false := by obtain h | h := hctl <;> rw [h] <;> rfl
    exact congrArg Host.Outcome.next (issue_rejects _ hb hwrong)
  · have hwrong : acceptsDrawing s.ctl = false := by obtain h | h | h := hctl <;> rw [h] <;> rfl
    have hreject (e : Engine) := congrArg (Host.Outcome.next (φ := Fault) (ρ := Refusal))
      (issue_rejects (accept c e) hb hwrong)
    exact ⟨hreject _, hreject _, hreject _, hreject _, hreject _⟩

/-! DROP. -/

theorem wordWrite_status (v : Word) (s : State) : wordWrite 0x0004#13 v s = .next (statusWrite v s) := rfl

/-- A word write keeps DROP, clears it by bit 8 at STATUS, or sets it at another offset while BUSY is 1. -/
theorem wordWrite_drop {o : Offset} {v : Word} {s t : State} (h : wordWrite o v s = .next t) :
    t.drop = s.drop ∨ (t.drop = false ∧ o = 0x0004#13 ∧ v.getLsbD 8 = true)
      ∨ (t.drop = true ∧ o ≠ 0x0004#13 ∧ s.busy = true) := by
  by_cases ho : o = 0x0004#13
  · subst ho
    rw [wordWrite_status, statusWrite_eq] at h
    cases h
    cases hbit : v.getLsbD 8 with
    | true => exact .inr (.inl ⟨by simp, rfl, rfl⟩)
    | false => exact .inl (by simp)
  · obtain ⟨-, e⟩ | ⟨hstatus, -⟩ | ⟨hb, e⟩ | ⟨-, e⟩ := wordWrite_cases o v s
    · rw [e] at h
      obtain ⟨hb, rfl⟩ | ⟨-, code, rfl⟩ | ⟨-, -, c, e, rfl, -⟩ | ⟨-, -, c, rfl⟩ := commandWrite_cases h
      · exact .inr (.inr ⟨rfl, ho, hb⟩)
      all_goals exact .inl rfl
    · exact absurd hstatus ho
    · rw [e] at h; cases h
      exact .inr (.inr ⟨rfl, ho, hb⟩)
    · rw [e] at h; cases h
      obtain ⟨_, _, _, _, _, _, _, hstore⟩ := storeReg_frame (regAt o.toNat) v s
      rw [hstore]
      exact .inl rfl

/-- The host's next line writes 1 to STATUS bit 8. -/
def clearsDropNext (s : State) : Prop :=
  ∃ line v, nextLine s = some line ∧ lineWrite line = some (0x0004#13, v) ∧ v.getLsbD 8 = true

/-- The host's next line is a write that BUSY makes ignored. -/
def isIgnoredNext (s : State) : Prop :=
  s.busy = true ∧ ∃ line o v, nextLine s = some line ∧ lineWrite line = some (o, v) ∧ o ≠ 0x0004#13

/-- A move of the host keeps DROP, or its line is the write that clears or sets it. -/
theorem hostStep_drop {s t : State} (h : hostStep s = .next t) :
    t.drop = s.drop ∨ (t.drop = false ∧ clearsDropNext s) ∨ (t.drop = true ∧ isIgnoredNext s) := by
  obtain ⟨line, o, v, hline, hlw, hwrite⟩ | ⟨_, _, rfl⟩ := hostStep_cases h
  · obtain hkeep | ⟨hclear, rfl, hbit⟩ | ⟨hset, ho, hb⟩ := wordWrite_drop hwrite
    · exact .inl hkeep
    · exact .inr (.inl ⟨hclear, line, v, hline, hlw, hbit⟩)
    · exact .inr (.inr ⟨hset, hb, line, o, v, hline, hlw, ho⟩)
  · exact .inl rfl

/-- A step keeps DROP, clears it as a reset or by the host's write to STATUS, or sets it by an ignored host write. -/
theorem step_drop {s t : State} (h : step s = .next t) :
    t.drop = s.drop
      ∨ (t.drop = false ∧ ((nextTurn s).1 = .reset ∨ ((nextTurn s).1 = .host ∧ clearsDropNext s)))
      ∨ (t.drop = true ∧ (nextTurn s).1 = .host ∧ isIgnoredNext s) := by
  obtain ⟨sched, -, ⟨hturn, ht⟩ | ⟨-, rfl⟩ | ⟨-, rfl⟩ | ⟨hturn, rfl⟩⟩ := step_cases h
  · obtain hkeep | ⟨hclear, hline⟩ | ⟨hset, hline⟩ := hostStep_drop ht
    · exact .inl hkeep
    · exact .inr (.inl ⟨hclear, .inr ⟨hturn, hline⟩⟩)
    · exact .inr (.inr ⟨hset, hturn, hline⟩)
  · exact .inl (engineStep_drop _)
  · exact .inl (busStep_drop _)
  · exact .inr (.inl ⟨rfl, .inl hturn⟩)

/-- Settles O43, by what a step makes of DROP: each of its two changes comes from the one case that gives its value. -/
theorem dropIsSticky : Obligations.DropIsSticky := by
  unfold Obligations.DropIsSticky
  intro s t hstep
  obtain hkeep | ⟨hfalse, hclear⟩ | ⟨htrue, hset⟩ := step_drop hstep
  · rw [hkeep]
    exact ⟨fun hs hs' => absurd (hs.symm.trans hs') (by decide),
      fun hs hs' => absurd (hs.symm.trans hs') (by decide)⟩
  · exact ⟨fun _ _ => hclear, fun _ ht => absurd (hfalse.symm.trans ht) (by decide)⟩
  · exact ⟨fun _ ht => absurd (htrue.symm.trans ht) (by decide), fun _ _ => hset⟩

/-! RESULT. -/

/-- A word write keeps RESULT, unless it is a command write with BUSY 0. -/
theorem wordWrite_result {o : Offset} {v : Word} {s t : State} (h : wordWrite o v s = .next t) :
    t.result = s.result ∨ (o = 0x0000#13 ∧ s.busy = false) := by
  obtain ⟨ho, e⟩ | ⟨-, e⟩ | ⟨-, e⟩ | ⟨-, e⟩ := wordWrite_cases o v s <;> rw [e] at h
  · obtain ⟨-, rfl⟩ | ⟨hb, -⟩ | ⟨hb, -⟩ | ⟨hb, -⟩ := commandWrite_cases h
    · exact .inl rfl
    all_goals exact .inr ⟨ho, hb⟩
  · cases h; exact .inl (statusWrite_result v s)
  · cases h; exact .inl rfl
  · cases h
    obtain ⟨_, _, _, _, _, _, _, hstore⟩ := storeReg_frame (regAt o.toNat) v s
    rw [hstore]
    exact .inl rfl

/-- A move of the host keeps RESULT, unless its line is a command write with BUSY 0. -/
theorem hostStep_result {s t : State} (h : hostStep s = .next t) :
    t.result = s.result
      ∨ (s.busy = false ∧ ∃ line w, nextLine s = some line ∧ lineWrite line = some (0x0000#13, w)) := by
  obtain ⟨line, o, v, hline, hlw, hwrite⟩ | ⟨_, _, rfl⟩ := hostStep_cases h
  · obtain hkeep | ⟨rfl, hb⟩ := wordWrite_result hwrite
    · exact .inl hkeep
    · exact .inr ⟨hb, line, v, hline, hlw⟩
  · exact .inl rfl

/-- An event of the engine that keeps RESULT or ends the command. -/
def keepsResultOrEnds (s t : State) : Prop :=
  t.result = s.result ∨ (t.busy = false ∧ t.engine = .idle)

theorem keepsResultOrEnds_complete (code : ResultCode) (s : State) : keepsResultOrEnds s (complete code s) :=
  .inr ⟨rfl, rfl⟩

theorem keepsResultOrEnds_initSendStep (n : Nat) (s : State) : keepsResultOrEnds s (initSendStep n s) := by
  unfold initSendStep
  split
  · exact .inl rfl
  · exact .inr ⟨rfl, rfl⟩

/-- A step of the engine keeps RESULT, unless it is the command's completion (10_state R27). -/
theorem keepsResultOrEnds_engineStep (s : State) : keepsResultOrEnds s (engineStep s) := by
  unfold engineStep
  cases he : s.engine with
  | fill i =>
    simp only [fillStep]
    split
    · exact .inl rfl
    · exact keepsResultOrEnds_complete .ok s
  | pixel => exact .inl (plot_result _ _ _ s)
  | line r => exact .inl (plot_result _ _ _ s)
  | text k cx col row =>
    simp only [textStep]
    split
    · left
      split
      · rfl
      · split <;> simp
    · exact keepsResultOrEnds_complete .ok s
  | initClear i =>
    simp only [initClearStep]
    split
    · exact .inl rfl
    · exact keepsResultOrEnds_initSendStep 0 s
  | initSend n => exact keepsResultOrEnds_initSendStep n s
  | flushSend p j =>
    simp only [flushSendStep]
    split
    · exact .inl rfl
    · exact keepsResultOrEnds_complete .ok s
  | pixelEnd | lineEnd | initAbort | flushAbort => exact .inr ⟨rfl, rfl⟩
  | idle | initWait | flushWait => exact .inl rfl

/-- Settles O44, by agent: the host changes RESULT by a command write, the engine as it completes, and the Bus Transport
keeps it. -/
theorem resultChangesOnlyAtItsEvents : Obligations.ResultChangesOnlyAtItsEvents := by
  unfold Obligations.ResultChangesOnlyAtItsEvents
  intro s t hstep hchange
  obtain ⟨sched, -, ⟨hturn, ht⟩ | ⟨hturn, rfl⟩ | ⟨-, rfl⟩ | ⟨hturn, rfl⟩⟩ := step_cases hstep
  · obtain hkeep | hwrite := hostStep_result ht
    · exact absurd hkeep hchange
    · exact .inr (.inl ⟨hturn, hwrite⟩)
  · obtain hkeep | hend := keepsResultOrEnds_engineStep { s with sched := sched }
    · exact absurd hkeep hchange
    · exact .inr (.inr ⟨hturn, hend⟩)
  · exact absurd (busStep_result _) hchange
  · exact .inl hturn

end Sys2Proof.Machine
end

section
/-! PROOFS, 70_reset. A reset (R230, 10_state R38), what no step changes (R232), and the hazards of a busy block: a host
write while BUSY is 1 (R240), a transaction with no answer (R250), and any interleaving of the agents (R241). -/
namespace Sys2Proof.Machine

/-! Reset. -/

/-- A scheduled reset is the move of the next step. -/
theorem step_of_scheduled_reset {s : State} {rest : List Turn} (h : s.sched = .reset :: rest) :
    step s = .next (resetBlock { s with sched := rest }) := by
  simp only [step, nextTurn, h, move]

/-- Settles O2: each value is the reset block's own. -/
theorem resetAbandonsTheCommand : Obligations.ResetAbandonsTheCommand := by
  unfold Obligations.ResetAbandonsTheCommand
  intro s rest hsched
  exact ⟨_, step_of_scheduled_reset hsched, rfl, rfl, rfl, rfl, rfl, rfl, rfl, rfl, rfl, rfl, rfl, rfl, rfl, rfl, rfl,
    rfl, fun _ => rfl, fun _ => rfl⟩

/-! What no move of the host changes. -/

/-- A word write leaves the parameters and the order of moves. -/
theorem wordWrite_keeps_params_sched {o : Offset} {v : Word} {s t : State} (h : wordWrite o v s = .next t) :
    t.params = s.params ∧ t.sched = s.sched := by
  obtain ⟨-, e⟩ | ⟨-, e⟩ | ⟨-, e⟩ | ⟨-, e⟩ := wordWrite_cases o v s <;> rw [e] at h
  · obtain ⟨-, rfl⟩ | ⟨-, code, rfl⟩ | ⟨-, -, c, e, rfl, -⟩ | ⟨-, -, c, rfl⟩ := commandWrite_cases h <;>
      exact ⟨rfl, rfl⟩
  · cases h; exact ⟨statusWrite_params v s, statusWrite_sched v s⟩
  · cases h; exact ⟨rfl, rfl⟩
  · cases h
    obtain ⟨_, _, _, _, _, _, _, hstore⟩ := storeReg_frame (regAt o.toNat) v s
    rw [hstore]
    exact ⟨rfl, rfl⟩

/-- So does a move of the host. -/
theorem hostStep_keeps_params_sched {s t : State} (h : hostStep s = .next t) :
    t.params = s.params ∧ t.sched = s.sched := by
  obtain ⟨_, _, _, -, -, hwrite⟩ | ⟨_, _, rfl⟩ := hostStep_cases h
  · exact wordWrite_keeps_params_sched (s := advanceHost s) hwrite
  · exact ⟨rfl, rfl⟩

/-- A step leaves the parameters, and takes at most its own turn off the order of moves. -/
theorem step_keeps_params_sched {s t : State} (h : step s = .next t) :
    t.params = s.params ∧ t.sched = (nextTurn s).2.sched := by
  obtain ⟨sched, hnext, hmove⟩ := step_cases h
  rw [hnext]
  obtain ⟨-, ht⟩ | ⟨-, rfl⟩ | ⟨-, rfl⟩ | ⟨-, rfl⟩ := hmove
  · exact hostStep_keeps_params_sched ht
  · exact ⟨engineStep_params _, engineStep_sched _⟩
  · exact ⟨busStep_params _, busStep_sched _⟩
  · exact ⟨rfl, rfl⟩

/-- Settles O3: no agent's move changes the parameters. -/
theorem parametersNeverChange : Obligations.ParametersNeverChange := by
  unfold Obligations.ParametersNeverChange
  intro s t hstep
  exact (step_keeps_params_sched hstep).1

/-! A host write while BUSY is 1. -/

/-- While BUSY is 1 a word write to any offset but STATUS is dropped, a command's among them. -/
theorem wordWrite_busy {o : Offset} (ho : o ≠ 0x0004#13) (v : Word) {s : State} (hb : s.busy = true) :
    wordWrite o v s = .next (dropWrite s) := by
  obtain ⟨-, e⟩ | ⟨hstatus, -⟩ | ⟨-, e⟩ | ⟨hidle, -⟩ := wordWrite_cases o v s
  · exact e.trans (commandWrite_busy v hb)
  · exact absurd hstatus ho
  · exact e
  · exact absurd hidle (by simp [hb])

/-- Settles O45: a write that acts is dropped, and any other does nothing. -/
theorem busyWriteOnlySetsDrop : Obligations.BusyWriteOnlySetsDrop := by
  unfold Obligations.BusyWriteOnlySetsDrop
  intro s size o v hb ho
  split
  · next hacts =>
    rw [hostAccess, if_pos ((acts_iff size o).mpr hacts)]
    exact wordWrite_busy ho _ hb
  · next hacts =>
    exact (otherAccessesDoNothing s size o v (not_and_or.mp hacts)).1

/-! A transaction with no answer. -/

/-- Blocks that look alike run the same command, at the same point. -/
theorem engine_of_engineView {s t : State} (h : engineView s = engineView t) : s.engine = t.engine := by
  have hengine := congrArg State.engine h
  exact hengine

/-- Blocks that look alike have the same bus log. -/
theorem busLog_of_engineView {s t : State} (h : engineView s = engineView t) : s.busLog = t.busLog := by
  have hlog := congrArg State.busLog h
  exact hlog

/-- With no answer to come, an outstanding transaction holds the running command. -/
theorem advance_unanswered {s : State} (hwait : waiting s = true) (hanswers : s.answers = []) : advance s = s := by
  simp [advance, busStep, hwait, hanswers]

/-- Settles O42: a step makes the command's next event or leaves the block's view, and the next event is none. -/
theorem unansweredTransactionHolds : Obligations.UnansweredTransactionHolds := by
  unfold Obligations.UnansweredTransactionHolds
  intro s t hb hwait hanswers hturn hstep
  have hview : engineView t = engineView s := by
    simpa [advance_unanswered hwait hanswers] using busyStepIsTheCommandsNextEvent s t hb hturn hstep
  exact ⟨(busy_of_engineView hview).trans hb, engine_of_engineView hview, busLog_of_engineView hview,
    fbByte_of_engineView hview⟩

/-! Any interleaving of the agents. -/

/-- Where no reset is scheduled the next move is none, and none is scheduled after it: the policy takes no reset. -/
theorem nextTurn_of_no_reset {s : State} (h : .reset ∉ s.sched) :
    (nextTurn s).1 ≠ .reset ∧ .reset ∉ (nextTurn s).2.sched := by
  unfold nextTurn
  split
  · next turn rest hsched =>
    rw [hsched, List.mem_cons, not_or] at h
    exact ⟨Ne.symm h.1, h.2⟩
  · refine ⟨?_, h⟩
    unfold defaultTurn
    split
    · split <;> simp
    · split <;> simp

/-- A run that answers a state starts with a step that does. -/
theorem exists_step_of_run {s t : State} {k : Nat} (h : core.run (k + 1) s = .next t) :
    ∃ u, step s = .next u ∧ core.run k u = .next t := by
  have hcore : core.step s = step s := rfl
  cases hstep : step s with
  | next u => exact ⟨u, rfl, (run_succ hstep k).symm.trans h⟩
  | fault | refused => simp [Host.Core.run, hcore, hstep] at h

/-- A step that makes the command's next event or none, and `m` events after it, are the command's first events, at most
`m + 1` of them. -/
theorem engineView_advanceN_of_step {s u t : State} {m : Nat}
    (hstep : engineView u = engineView s ∨ engineView u = engineView (advance s))
    (ht : engineView t = engineView (advanceN m u)) :
    ∃ m' ≤ m + 1, engineView t = engineView (advanceN m' s) := by
  obtain hsame | hnext := hstep
  · exact ⟨m, Nat.le_succ m, ht.trans (engineView_advanceN m hsame)⟩
  · exact ⟨m + 1, le_rfl, ht.trans (engineView_advanceN m hnext)⟩

/-- A run without a reset, busy in every state before its last, leaves the block as the command's first events do. The
state of an empty run need not be busy: so the one in which the command has just completed is covered. -/
theorem engineView_run (k : Nat) (s t : State) (hb : k = 0 ∨ s.busy = true) (hreset : .reset ∉ s.sched)
    (hrun : core.run k s = .next t) :
    (∃ j < k, ∃ u, core.run j s = .next u ∧ u.busy = false)
      ∨ ∃ m ≤ k, engineView t = engineView (advanceN m s) := by
  induction k generalizing s with
  | zero =>
    cases hrun
    exact .inr ⟨0, le_rfl, rfl⟩
  | succ k ih =>
    have hbusy : s.busy = true := hb.resolve_left (Nat.succ_ne_zero k)
    obtain ⟨hturn, hafter⟩ := nextTurn_of_no_reset hreset
    obtain ⟨u, hstep, hrest⟩ := exists_step_of_run hrun
    have hview := busyStepIsTheCommandsNextEvent s u hbusy hturn hstep
    by_cases hgo : k = 0 ∨ u.busy = true
    · obtain ⟨j, hj, v, hv, hidle⟩ | ⟨m, hm, ht⟩ := ih u hgo ((step_keeps_params_sched hstep).2 ▸ hafter) hrest
      · exact .inl ⟨j + 1, Nat.succ_lt_succ hj, v, (run_succ hstep j).trans hv, hidle⟩
      · obtain ⟨m', hm', ht'⟩ := engineView_advanceN_of_step hview ht
        exact .inr ⟨m', hm'.trans (Nat.succ_le_succ hm), ht'⟩
    · obtain ⟨hpos, hidle⟩ := not_or.mp hgo
      exact .inl ⟨1, by omega, u, run_succ hstep 0, by simpa using hidle⟩

/-- Settles O39, by induction on the run: each step is the command's next event or none of its events. -/
theorem busyBlockIsAPrefixOfTheCommand : Obligations.BusyBlockIsAPrefixOfTheCommand := by
  unfold Obligations.BusyBlockIsAPrefixOfTheCommand
  intro k s t hb hreset hrun
  refine (engineView_run k s t (.inr hb) hreset hrun).imp_right ?_
  rintro ⟨m, hm, hview⟩
  exact ⟨m, hm, hview, fbByte_of_engineView hview⟩

end Sys2Proof.Machine
end

section
/-! PROOFS, 70_reset. Every running command completes (R249, R250): a bound on its events and on its transactions falls
with each of its events, up to its completion. -/
namespace Sys2Proof.Machine

/-! What is left of a command. -/

/-- How many transactions the running command has yet to see answered, if every answer is OK. -/
def txnsLeft (p : Params) : Engine → Nat
  | .initClear _ => p.initSeq.length
  | .initSend n => p.initSeq.length - n
  | .initWait n => p.initSeq.length - n
  | .flushSend q j => 4 * (p.pages - q) - j
  | .flushWait q j => 4 * (p.pages - q) - j
  | _ => 0

/-- How many events the running command makes, at most, before its completion. -/
def eventsLeft (p : Params) (l : Latches) : Engine → Nat
  | .fill i => p.fbBytes - i
  | .pixel => 1
  | .line r => (coordInt l.lx1 - r.x).natAbs + (coordInt l.ly1 - r.y).natAbs + 1
  | .text k _ col row => 48 * (l.llen.toNat - k) - (8 * col + row)
  | .initClear i => p.fbBytes - i + 2 * p.initSeq.length
  | .initSend n => 2 * (p.initSeq.length - n)
  | .initWait n => 2 * (p.initSeq.length - n) - 1
  | .flushSend q j => 2 * (4 * (p.pages - q) - j)
  | .flushWait q j => 2 * (4 * (p.pages - q) - j) - 1
  | .idle | .pixelEnd | .lineEnd | .initAbort | .flushAbort => 0

/-- The result codes with which the command at `e` may complete (60_exceptions R200, R202, R203). -/
def mayEndWith (e : Engine) (code : ResultCode) : Prop :=
  code = .ok ∨ (engineOp e = some .flush ∧ code = .transportError) ∨ (engineOp e = some .init ∧ code = .initError)

/-- At `e` the command of `s` goes on, with fewer events left and no more transactions. -/
structure GoesOnAt (s : State) (e : Engine) : Prop where
  op : engineOp e = engineOp s.engine
  events : eventsLeft s.params s.latch e < eventsLeft s.params s.latch s.engine
  txns : txnsLeft s.params e ≤ txnsLeft s.params s.engine

/-- `t` has completed the command of `s`. -/
def completes (s t : State) : Prop := t.busy = false ∧ mayEndWith s.engine t.result

/-- An event of the running command: it goes on, or completes. -/
def goesOnOrCompletes (s t : State) : Prop := GoesOnAt s t.engine ∨ completes s t

theorem goesOnOrCompletes_ok (s : State) : goesOnOrCompletes s (complete .ok s) := .inr ⟨rfl, .inl rfl⟩

/-! The engine's steps. -/

section
variable {s : State}

theorem fillStep_goesOn {i : Nat} (he : s.engine = .fill i) : goesOnOrCompletes s (fillStep i s) := by
  unfold fillStep
  split
  · next hi =>
    refine .inl ⟨by simp [he, engineOp], ?_, Nat.zero_le _⟩
    simp only [he, eventsLeft]
    omega
  · exact goesOnOrCompletes_ok s

theorem pixelStep_goesOn (he : s.engine = .pixel) : goesOnOrCompletes s (pixelStep s) :=
  .inl ⟨by simp [he, pixelStep, engineOp], by simp [he, pixelStep, eventsLeft], Nat.zero_le _⟩

/-- Each move of the line comes one pixel nearer to the latched endpoint. -/
theorem eventsLeft_lineMove {l : Latches} {r : LineRegs} (p : Params) (h : onLine l r)
    (hend : ¬(r.x = coordInt l.lx1 ∧ r.y = coordInt l.ly1)) :
    eventsLeft p l (.line (lineMove r)) < eventsLeft p l (.line r) := by
  obtain ⟨i, j, hat⟩ := (onLine_iff l r).mp h
  obtain ⟨hx, hy⟩ := lineAt_dist hat
  simp only [eventsLeft]
  obtain ⟨hi, hmove, -⟩ | ⟨hj, hmove, -⟩ := lineAt_move hat (mt (lineAt_end hat).mpr hend)
  · obtain ⟨hx', hy'⟩ := lineAt_dist hmove
    omega
  · obtain ⟨hx', hy'⟩ := lineAt_dist hmove
    omega

theorem lineStep_goesOn (h : Inv s) {r : LineRegs} (he : s.engine = .line r) : goesOnOrCompletes s (lineStep r s) := by
  have hon : onLine s.latch r := by simpa only [engineOk, he] using h.engine_ok
  left
  simp only [lineStep]
  split
  · exact ⟨by simp [he, engineOp], by simp [he, eventsLeft], Nat.zero_le _⟩
  · next hend => exact ⟨by simp [he, engineOp], he ▸ eventsLeft_lineMove s.params hon hend, Nat.zero_le _⟩

/-- A character takes at most 48 events, whichever of its glyph bits is next. -/
theorem goesOnAt_next_char {k : Nat} {cx : Int} {col row : Nat} (he : s.engine = .text k cx col row)
    (hk : k < s.latch.llen.toNat) (hcol : col < 6) (hrow : row < 8) (cx' : Int) :
    GoesOnAt s (.text (k + 1) cx' 0 0) := by
  refine ⟨by simp [he, engineOp], ?_, Nat.zero_le _⟩
  simp only [he, eventsLeft]
  omega

theorem goesOnAt_textNext {k : Nat} {cx : Int} {col row : Nat} (he : s.engine = .text k cx col row)
    (hk : k < s.latch.llen.toNat) (hcol : col < 6) (hrow : row < 8) : GoesOnAt s (textNext k cx col row) := by
  have hbit {col' row' : Nat} (hnext : 8 * col + row < 8 * col' + row') : GoesOnAt s (.text k cx col' row') := by
    refine ⟨by simp [he, engineOp], ?_, Nat.zero_le _⟩
    simp only [he, eventsLeft]
    omega
  unfold textNext
  split
  · exact hbit (by omega)
  · split
    · exact hbit (by omega)
    · exact goesOnAt_next_char he hk hcol hrow _

theorem textStep_goesOn (h : Inv s) {k : Nat} {cx : Int} {col row : Nat} (he : s.engine = .text k cx col row) :
    goesOnOrCompletes s (textStep k cx col row s) := by
  obtain ⟨-, -, hcol, hrow⟩ : k ≤ s.latch.llen.toNat ∧ cx = coordInt s.latch.lx0 + 7 * k ∧ col < 6 ∧ row < 8 := by
    simpa only [engineOk, he] using h.engine_ok
  unfold textStep
  split
  · next hk =>
    left
    split
    · exact goesOnAt_next_char he hk hcol hrow _
    · split <;> exact goesOnAt_textNext he hk hcol hrow
  · exact goesOnOrCompletes_ok s

theorem initSendStep_goesOn {n : Nat} (he : s.engine = .initSend n) : goesOnOrCompletes s (initSendStep n s) := by
  unfold initSendStep
  split
  · next b hb =>
    have hn : n < s.params.initSeq.length := (List.getElem?_eq_some_iff.mp hb).1
    refine .inl ⟨by simp [he, engineOp], ?_, by simp [he, txnsLeft]⟩
    simp only [he, eventsLeft]
    omega
  · exact .inr ⟨rfl, .inl rfl⟩

theorem initClearStep_goesOn (h : Inv s) {i : Nat} (he : s.engine = .initClear i) :
    goesOnOrCompletes s (initClearStep i s) := by
  obtain ⟨hi, -⟩ : i < s.params.fbBytes ∧ ∀ j < i, s.fb.lookup j = some 0x00#8 := by
    simpa only [engineOk, he] using h.engine_ok
  rw [initClearStep, if_pos hi]
  refine .inl ⟨?_, ?_, ?_⟩
  · split <;> simp [he, engineOp]
  · simp only [he]
    split <;> simp only [eventsLeft] <;> omega
  · split <;> simp [he, txnsLeft]

theorem flushSendStep_goesOn (h : Inv s) {p j : Nat} (he : s.engine = .flushSend p j) :
    goesOnOrCompletes s (flushSendStep p j s) := by
  obtain ⟨-, hj, -⟩ : p ≤ s.params.pages ∧ j < 4 ∧ (p = s.params.pages → j = 0) := by
    simpa only [engineOk, he] using h.engine_ok
  unfold flushSendStep
  split
  · next hp =>
    refine .inl ⟨by simp [he, engineOp], ?_, by simp [he, txnsLeft]⟩
    simp only [he, eventsLeft]
    omega
  · exact goesOnOrCompletes_ok s

/-- A step of an engine that runs and does not wait is an event of its command. -/
theorem engineStep_goesOn (h : Inv s) (hrun : s.engine ≠ .idle) (hwait : waiting s = false) :
    goesOnOrCompletes s (engineStep s) := by
  unfold engineStep
  cases he : s.engine with
  | idle => exact absurd he hrun
  | fill i => exact fillStep_goesOn he
  | pixel => exact pixelStep_goesOn he
  | line r => exact lineStep_goesOn h he
  | text k cx col row => exact textStep_goesOn h he
  | initClear i => exact initClearStep_goesOn h he
  | initSend n => exact initSendStep_goesOn he
  | flushSend p j => exact flushSendStep_goesOn h he
  | pixelEnd | lineEnd => exact goesOnOrCompletes_ok s
  | initAbort => exact .inr ⟨rfl, .inr (.inr ⟨by rw [he]; rfl, rfl⟩)⟩
  | flushAbort => exact .inr ⟨rfl, .inr (.inl ⟨by rw [he]; rfl, rfl⟩)⟩
  | initWait | flushWait => simp [waiting, he] at hwait

/-! The answers of the Bus Transport. -/

/-- While a transaction is outstanding, its answer lets the command go on, with one transaction fewer. -/
theorem afterAnswer_goesOn (h : Inv s) (hwait : waiting s = true) (r : Answer) :
    GoesOnAt s (afterAnswer r s.engine) ∧ txnsLeft s.params (afterAnswer r s.engine) < txnsLeft s.params s.engine := by
  suffices hless : eventsLeft s.params s.latch (afterAnswer r s.engine) < eventsLeft s.params s.latch s.engine
      ∧ txnsLeft s.params (afterAnswer r s.engine) < txnsLeft s.params s.engine from
    ⟨⟨engineOp_afterAnswer r s.engine, hless.1, hless.2.le⟩, hless.2⟩
  obtain ⟨n, he⟩ | ⟨p, j, he⟩ := (waiting_iff s).mp hwait
  · obtain ⟨hn, -⟩ : n < s.params.initSeq.length ∧ fbCleared s ∧ lastUnanswered s := by
      simpa only [engineOk, he] using h.engine_ok
    rw [he]
    cases r <;> simp only [afterAnswer, eventsLeft, txnsLeft] <;> omega
  · obtain ⟨hp, hj, -⟩ : p < s.params.pages ∧ j < 4 ∧ lastUnanswered s := by
      simpa only [engineOk, he] using h.engine_ok
    rw [he]
    cases r with
    | ok =>
      simp only [afterAnswer, flushNext]
      split <;> simp only [eventsLeft, txnsLeft] <;> omega
    | fail => simp only [afterAnswer, eventsLeft, txnsLeft]; omega

/-! The next event. -/

/-- There are answers to come for all of the running command's transactions. -/
def answersSuffice (s : State) : Prop := txnsLeft s.params s.engine ≤ s.answers.length

theorem advance_keeps_inv (h : Inv s) : Inv (advance s) := by
  unfold advance
  split
  · exact busStep_keeps_inv h
  · exact engineStep_keeps_inv h

/-- With enough answers to come, a running command goes on, with enough answers still, or completes. -/
theorem advance_goesOn (h : Inv s) (hrun : s.engine ≠ .idle) (hanswers : answersSuffice s) :
    (GoesOnAt s (advance s).engine ∧ answersSuffice (advance s)) ∨ completes s (advance s) := by
  cases hwait : waiting s with
  | true =>
    rw [advance_waiting hwait]
    obtain ⟨r, rest, -, hcons, hbus⟩ | ⟨hidle | hnil, -⟩ := busStep_cases s
    · obtain ⟨hgo, hfewer⟩ := afterAnswer_goesOn h hwait r
      rw [answersSuffice, hcons, List.length_cons] at hanswers
      rw [hbus]
      exact .inl ⟨hgo, Nat.le_of_lt_succ (hfewer.trans_le hanswers)⟩
    · simp [hwait] at hidle
    · obtain ⟨-, hfewer⟩ := afterAnswer_goesOn h hwait .ok
      rw [answersSuffice, hnil, List.length_nil] at hanswers
      omega
  | false =>
    rw [advance_running hwait]
    refine (engineStep_goesOn h hrun hwait).imp_left fun hgo => ⟨hgo, ?_⟩
    rw [answersSuffice, engineStep_params, engineStep_answers]
    exact hgo.txns.trans hanswers

/-! The whole run. -/

/-- The running command completes at its `n`-th event. -/
def completesAt (s : State) (n : Nat) : Prop :=
  (advanceN n s).busy = false ∧ (∀ m < n, (advanceN m s).busy = true) ∧ mayEndWith s.engine (advanceN n s).result

theorem completesAt_one (hb : s.busy = true) (hend : completes s (advance s)) : completesAt s 1 := by
  refine ⟨hend.1, fun m hm => ?_, hend.2⟩
  obtain rfl : m = 0 := by omega
  exact hb

theorem completesAt_succ {n : Nat} (hb : s.busy = true) (hop : engineOp (advance s).engine = engineOp s.engine)
    (hend : completesAt (advance s) n) : completesAt s (n + 1) := by
  obtain ⟨hidle, hbusy, hcode⟩ := hend
  rw [mayEndWith, hop] at hcode
  refine ⟨hidle, fun m hm => ?_, hcode⟩
  cases m with
  | zero => exact hb
  | succ m => exact hbusy m (by omega)

end

/-- A running command with enough answers to come makes its events and completes: each event leaves fewer. -/
theorem completes_after_eventsLeft {s : State} (h : Inv s) (hb : s.busy = true) (hanswers : answersSuffice s) :
    ∃ n ≤ eventsLeft s.params s.latch s.engine + 1, completesAt s n := by
  have hrun := h.busy_iff.mp hb
  obtain ⟨hgo, hanswers'⟩ | hend := advance_goesOn h hrun hanswers
  · have hfewer : eventsLeft (advance s).params (advance s).latch (advance s).engine
        < eventsLeft s.params s.latch s.engine := by simpa using hgo.events
    have h' := advance_keeps_inv h
    have hrun' : (advance s).engine ≠ .idle := by rwa [Ne, ← engineOp_eq_none_iff, hgo.op, engineOp_eq_none_iff]
    obtain ⟨n, hn, hend⟩ := completes_after_eventsLeft h' (h'.busy_iff.mpr hrun') hanswers'
    exact ⟨n + 1, by omega, completesAt_succ hb hgo.op hend⟩
  · exact ⟨1, by omega, completesAt_one hb hend⟩
termination_by eventsLeft s.params s.latch s.engine
decreasing_by exact hfewer

/-! The bounds of a legal build. -/

/-- A legal build has at most 8 pages and 1024 framebuffer bytes (00_scope R7). -/
theorem pages_fbBytes_le {p : Params} (h : p.wf = true) : p.pages ≤ 8 ∧ p.fbBytes ≤ 1024 := by
  obtain ⟨-, hw, -, -, hh, -⟩ := (params_wf_iff p).mp h
  have hpages : p.pages ≤ 8 := by rw [Params.pages]; omega
  exact ⟨hpages, Nat.mul_le_mul hw hpages⟩

/-- No command issues more than 64 transactions. -/
theorem txnsLeft_le {p : Params} (h : p.wf = true) (e : Engine) : txnsLeft p e ≤ 64 := by
  obtain ⟨hpages, -⟩ := pages_fbBytes_le h
  obtain ⟨-, -, -, -, -, -, hseq, -⟩ := (params_wf_iff p).mp h
  cases e <;> simp only [txnsLeft] <;> omega

/-- Two coordinates lie at most 65535 pixels apart (10_state R28). -/
theorem natAbs_coordInt_sub_le (a b : Coord) : (coordInt a - coordInt b).natAbs ≤ 65535 := by
  have := BitVec.toInt_lt (x := a)
  have := BitVec.le_toInt a
  have := BitVec.toInt_lt (x := b)
  have := BitVec.le_toInt b
  simp only [coordInt]
  omega

/-- The line from corner to corner has the most events before its completion. -/
theorem eventsLeft_le {s : State} (h : Inv s) : eventsLeft s.params s.latch s.engine ≤ 131071 := by
  obtain ⟨hpages, hbytes⟩ := pages_fbBytes_le h.params_wf
  obtain ⟨-, -, -, -, -, -, hseq, -⟩ := (params_wf_iff _).mp h.params_wf
  cases he : s.engine with
  | line r =>
    have hon : onLine s.latch r := by simpa only [engineOk, he] using h.engine_ok
    obtain ⟨i, j, hat⟩ := (onLine_iff _ _).mp hon
    obtain ⟨hx, hy⟩ := lineAt_dist hat
    have hdx := natAbs_coordInt_sub_le s.latch.lx1 s.latch.lx0
    have hdy := natAbs_coordInt_sub_le s.latch.ly1 s.latch.ly0
    simp only [eventsLeft]
    omega
  | text k cx col row =>
    have hlen := s.latch.llen.isLt
    simp only [eventsLeft]
    omega
  | _ => simp only [eventsLeft]; omega

/-- Settles O32: the events and the transactions left of the command are within a legal build's bounds. -/
theorem everyCommandCompletes : Obligations.EveryCommandCompletes := by
  unfold Obligations.EveryCommandCompletes
  intro s h hb hanswers
  have hevents := eventsLeft_le h
  obtain ⟨n, hn, hend⟩ := completes_after_eventsLeft h hb ((txnsLeft_le h.params_wf s.engine).trans hanswers)
  exact ⟨n, by omega, hend⟩

end Sys2Proof.Machine
end
